-- ==== Sys2Proof/Word.lean ====
section
/-! DEFINITION. The word types of FCODEC (00_scope.md R5): every value is an unsigned integer of a fixed width. -/

namespace Sys2Proof

/-- An unsigned 8-bit value: a buffer byte, a header byte, STATUS, REPORT_ID (R5). -/
abbrev Byte := BitVec 8

/-- An unsigned 16-bit value: IN_LEN and DECL_LEN (10_state.md R14, R23). -/
abbrev Half := BitVec 16

/-- An unsigned 32-bit value: the command word CW and OUT_LEN (10_state.md R13, R19). -/
abbrev Word := BitVec 32

end Sys2Proof
end

