-- ==== Sys2Proof/Syntax.lean ====
section
/-! DEFINITION. The instructions of spec/opcode_table.json, one constructor a row. -/

namespace Sys2Proof

/-- A legal command word, as an instruction. The first five are the operations of 30_encoding.md R48. The last four
are the table's pseudo-operation rows (R58): each names ONE command word of BUILD.W or BUILD.R, the word its expansion
issues, and has no effect of its own beyond it (40_frame_build.md R75; DESIGN CHOICE, assumption 4). -/
inductive Instr where
  /-- BUILD.W with its GROUP and CMD bytes (40_frame_build.md R62). -/
  | buildW (group command : Byte)
  /-- BUILD.R with its GROUP and CMD bytes (R63). -/
  | buildR (group command : Byte)
  /-- PARSE (41_header_parse.md R76). -/
  | parse
  /-- COMBBE (42_byte_combine.md R84). -/
  | combbe
  /-- DECLE (42_byte_combine.md R85). -/
  | decle
  /-- SCAN: the word 0x00180200 (40_frame_build.md R71). -/
  | scan
  /-- GETCFG: the word 0x00230201 (R72). -/
  | getcfg
  /-- FSIZE: the word 0x002D0001; the file id is the operand byte IN[0] (R73). -/
  | fsize
  /-- FCHUNK: the word 0x002E0001 (R74). -/
  | fchunk
  deriving DecidableEq, Repr

end Sys2Proof
end

