-- ==== Sys2Proof/WellFormed.lean ====
section
/-! DEFINITION. Which terms of `Instr` are the ONE name the decoder gives a command word.

Every pair of operand bytes is a legal BUILD (40_frame_build.md R62), so a term is ill formed only where the table
has a row of its own for its word (30_encoding.md R58, R59). -/

namespace Sys2Proof

/-- The checks on a term of `Instr`: BUILD.W is not the word of SCAN (40_frame_build.md R71), BUILD.R is not the word
of GETCFG, FSIZE or FCHUNK (R72 to R74). A term that fails a check still has its meaning; its word decodes to the
pseudo-operation of that word. -/
def Instr.wellFormed : Instr → Bool
  | .buildW group command => !(group == 0x02#8 && command == 0x18#8)
  | .buildR group command =>
    !((group == 0x02#8 && command == 0x23#8) || (group == 0x00#8 && command == 0x2D#8)
      || (group == 0x00#8 && command == 0x2E#8))
  | .parse => true
  | .combbe => true
  | .decle => true
  | .scan => true
  | .getcfg => true
  | .fsize => true
  | .fchunk => true

end Sys2Proof
end

