-- ==== Sys2Proof/Decode.lean ====
section
/-! DEFINITION. The decoder of command words (30_encoding.md R46 to R50) and the encoder, from the same table. -/

namespace Sys2Proof

/-- Why a word is no command word (30_encoding.md R50). Raised by `decode` only; issuing such a word is no stop, it
records ILLEGAL_OP (60_exceptions.md R92). Safe. -/
inductive DecodeError where
  /-- OP is 5, 6 or 7. -/
  | reservedOp
  /-- A reserved bit is set: one of 7:3 or 31:24 under OP 0 or 1, one of 31:3 under OP 2, 3 or 4. -/
  | reservedBit
  deriving DecidableEq, Repr

/-- BUILD.W of `group` and `command` under its row's name: SCAN has a row of its own (40_frame_build.md R71). -/
def Instr.ofBuildW (group command : Byte) : Instr :=
  if group = 0x02#8 ∧ command = 0x18#8 then .scan else .buildW group command

/-- BUILD.R of `group` and `command` under its row's name: GETCFG, FSIZE and FCHUNK have rows of their own
(40_frame_build.md R72 to R74). -/
def Instr.ofBuildR (group command : Byte) : Instr :=
  if group = 0x02#8 ∧ command = 0x23#8 then .getcfg
  else if group = 0x00#8 ∧ command = 0x2D#8 then .fsize
  else if group = 0x00#8 ∧ command = 0x2E#8 then .fchunk
  else .buildR group command

/-- The name the decoder gives the command word of `i`. -/
def Instr.canonical : Instr → Instr
  | .buildW group command => Instr.ofBuildW group command
  | .buildR group command => Instr.ofBuildR group command
  | .parse => .parse
  | .combbe => .combbe
  | .decle => .decle
  | .scan => .scan
  | .getcfg => .getcfg
  | .fsize => .fsize
  | .fchunk => .fchunk

/-- The operation a pseudo-operation expands to (40_frame_build.md R71 to R74); the five operations are themselves. -/
def Instr.expansion : Instr → Instr
  | .buildW group command => .buildW group command
  | .buildR group command => .buildR group command
  | .parse => .parse
  | .combbe => .combbe
  | .decle => .decle
  | .scan => .buildW 0x02#8 0x18#8
  | .getcfg => .buildR 0x02#8 0x23#8
  | .fsize => .buildR 0x00#8 0x2D#8
  | .fchunk => .buildR 0x00#8 0x2E#8

/-- OP, bits 2:0 (R47). -/
def Word.op (w : Word) : BitVec 3 := w.extractLsb' 0 3

/-- RSV_LO, bits 7:3 (R47). -/
def Word.rsvLo (w : Word) : BitVec 5 := w.extractLsb' 3 5

/-- GROUP, bits 15:8 (R47). -/
def Word.group (w : Word) : Byte := w.extractLsb' 8 8

/-- CMD, bits 23:16 (R47). -/
def Word.command (w : Word) : Byte := w.extractLsb' 16 8

/-- RSV_HI, bits 31:24 (R47). -/
def Word.rsvHi (w : Word) : BitVec 8 := w.extractLsb' 24 8

/-- Bits 31:3, all reserved under OP 2, 3 and 4 (R46). -/
def Word.aboveOp (w : Word) : BitVec 29 := w.extractLsb' 3 29

/-- The decode checks of R49: total on every 32-bit word, an illegal word refused by name. -/
def decode (w : Word) : Except DecodeError Instr :=
  match (Word.op w).toNat with
  | 0 =>
    if Word.rsvLo w = 0 ∧ Word.rsvHi w = 0 then .ok (Instr.ofBuildW (Word.group w) (Word.command w))
    else .error .reservedBit
  | 1 =>
    if Word.rsvLo w = 0 ∧ Word.rsvHi w = 0 then .ok (Instr.ofBuildR (Word.group w) (Word.command w))
    else .error .reservedBit
  | 2 => if Word.aboveOp w = 0 then .ok .parse else .error .reservedBit
  | 3 => if Word.aboveOp w = 0 then .ok .combbe else .error .reservedBit
  | 4 => if Word.aboveOp w = 0 then .ok .decle else .error .reservedBit
  | _ => .error .reservedOp

/-- A command word from its fields, reserved bits 0 (R46). -/
def commandWord (op : BitVec 3) (group command : Byte) : Word :=
  0#8 ++ command ++ group ++ 0#5 ++ op

/-- The OP value of an instruction (R48; the pseudo-operations by 40_frame_build.md R71 to R74). -/
def Instr.op : Instr → BitVec 3
  | .buildW _ _ => 0
  | .buildR _ _ => 1
  | .parse => 2
  | .combbe => 3
  | .decle => 4
  | .scan => 0
  | .getcfg => 1
  | .fsize => 1
  | .fchunk => 1

/-- The command word of an instruction (R46, R48; 40_frame_build.md R71 to R74). -/
def encode (i : Instr) : Word :=
  match i with
  | .buildW group command => commandWord 0 group command
  | .buildR group command => commandWord 1 group command
  | .parse => commandWord 2 0 0
  | .combbe => commandWord 3 0 0
  | .decle => commandWord 4 0 0
  | .scan => commandWord 0 0x02 0x18
  | .getcfg => commandWord 1 0x02 0x23
  | .fsize => commandWord 1 0x00 0x2D
  | .fchunk => commandWord 1 0x00 0x2E

/-- The instruction of a row of the opcode table whose `nbits` low bits are `w`. CW is one 32-bit register with no byte
view (20_memory.md R36), so the number itself is the word; a number of more than 32 bits is no command word
(10_state.md R28). -/
def decodeTableWord (nbits w : Nat) : Option Instr :=
  let v := w % 2 ^ nbits
  if v < 2 ^ 32 then
    match decode (BitVec.ofNat 32 v) with
    | .ok i => some i
    | .error _ => none
  else none

end Sys2Proof
end

