-- ==== Sys2Proof/Machine/Flags.lean ====
section
/-! DEFINITION. The fields of STATUS and how a value of it is put together (10_state.md R16 to R18). -/

namespace Sys2Proof.Machine

/-- STATUS.KIND: which result registers hold the result of the last issue (R17). -/
inductive Kind where
  /-- NONE: no result register is valid. -/
  | none
  /-- FRAME: OUT_LEN, REPORT_ID and OUT_BUF[0] to OUT_BUF[OUT_LEN-1]. -/
  | frame
  /-- HEADER: HDR_B0 to HDR_B3 and DECL_LEN. -/
  | header
  /-- VALUE: VALUE. -/
  | value
  deriving DecidableEq, Repr

/-- STATUS.ERR: the error the last issue raised, or OK (R18). -/
inductive ErrorCode where
  /-- OK: no error. -/
  | ok
  /-- TRUNCATED_HEADER (60_exceptions.md R91). -/
  | truncatedHeader
  /-- ILLEGAL_OP (R92). -/
  | illegalOp
  /-- OPERAND_LENGTH (R93). -/
  | operandLength
  deriving DecidableEq, Repr

/-- The KIND values of R17. -/
def Kind.code : Kind → BitVec 2
  | .none => 0
  | .frame => 1
  | .header => 2
  | .value => 3

/-- The ERR values of R18. -/
def ErrorCode.code : ErrorCode → BitVec 2
  | .ok => 0
  | .truncatedHeader => 1
  | .illegalOp => 2
  | .operandLength => 3

/-- STATUS from its fields: KIND in 1:0, ERR in 3:2, bits 7:4 read 0 (R16). -/
def statusOf (kind : Kind) (err : ErrorCode) : Byte := 0#4 ++ err.code ++ kind.code

/-- STATUS after an issue without error: KIND says which results are valid, ERR is OK (R17). -/
def statusDone (kind : Kind) : Byte := statusOf kind .ok

/-- STATUS after an issue that raised `err`: KIND is NONE (60_exceptions.md R94). -/
def statusError (err : ErrorCode) : Byte := statusOf .none err

end Sys2Proof.Machine
end

