-- ==== Sys2Proof/Config.lean ====
section
/-! DEFINITION. The implementation parameters of FCODEC (00_scope.md section 3, R4). -/

namespace Sys2Proof

/-- The three sizes the source leaves open, which a model takes as arguments (R4). `Machine/Params.lean` says
which values are legal and what follows from them. -/
structure Config where
  /-- `IN_CAP`, the capacity of IN_BUF in bytes. -/
  inCap : Nat
  /-- `MAX_PAYLOAD`, the largest payload BUILD.W and BUILD.R accept. -/
  maxPayload : Nat
  /-- `MAX_COMBINE`, the largest operand COMBBE and DECLE accept. -/
  maxCombine : Nat
  deriving DecidableEq, Repr

/-- The default parameters of 00_scope.md section 3. -/
def Config.standard : Config := { inCap := 64, maxPayload := 58, maxCombine := 4 }

end Sys2Proof
end

