-- ==== Sys2Proof/Machine/Params.lean ====
section
/-! DEFINITION. The legal parameters and the two sizes that follow from them (00_scope.md section 3, R4). -/

namespace Sys2Proof

/-- The legal ranges of R4. -/
abbrev Config.Legal (cfg : Config) : Prop :=
  4 ≤ cfg.inCap ∧ cfg.maxPayload ≤ cfg.inCap ∧ cfg.maxCombine ≤ cfg.inCap ∧ cfg.inCap ≤ 65535 ∧
    cfg.maxPayload ≤ 65533 ∧ 1 ≤ cfg.maxCombine

/-- `OUT_CAP`, the capacity of OUT_BUF in bytes (R4). -/
def Config.outCap (cfg : Config) : Nat := cfg.maxPayload + 6

/-- `VALUE_WIDTH`, the width of VALUE in bits (R4). -/
def Config.valueWidth (cfg : Config) : Nat := 8 * cfg.maxCombine

end Sys2Proof
end

