-- ==== Sys2Proof/Machine/State.lean ====
section
/-! DEFINITION. The state of FCODEC (10_state.md), the host's side of the interface, and why a step can stop. -/

namespace Sys2Proof.Machine

/-- A byte buffer: the bytes that hold a value, by index. One canonical form: indices strictly rising
(`Memory.Canonical`). An index that is not listed holds `⊥`, the spec's "no value" (10_state.md R25, R30); no listed
entry can equal that. -/
abbrev Memory := List Host.Cell

/-- One access of the host (10_state.md R12; 20_memory.md R32, R36; 30_encoding.md R57). A value is the number the host
drives; a number wider than the register is refused (10_state.md R28; DESIGN CHOICE, assumption 8). -/
inductive HostAccess where
  /-- `WR <reg>, <value>`: write register number `reg`. A write of CW issues (10_state.md R13). -/
  | writeReg (reg : Byte) (value : Nat)
  /-- `RD <reg>`: read register number `reg`. -/
  | readReg (reg : Byte)
  /-- `WR IN[index], <byte>`: write a byte of IN_BUF. -/
  | writeIn (index value : Nat)
  /-- Read a byte of IN_BUF (10_state.md R12: host access "read, write"). -/
  | readIn (index : Nat)
  /-- A write of a byte of OUT_BUF, which is read only (R12, R28). -/
  | writeOut (index value : Nat)
  /-- `RD OUT[index]`: read a byte of OUT_BUF. -/
  | readOut (index : Nat)
  /-- `RESET` (70_reset_and_hazards.md R105). -/
  | reset
  deriving DecidableEq, Repr

/-- All of FCODEC's state (10_state.md R12), its parameters, and the host's side. `none` is the spec's `⊥` (00_scope.md
R8, 10_state.md R25, R26, R30), which names no value; holding it as `none` is a representation (assumption 3). -/
structure State where
  /-- IN_CAP, MAX_PAYLOAD and MAX_COMBINE: parameters, never written (R31; DESIGN CHOICE, assumption 1). -/
  cfg : Config
  /-- CW, register 0x00 (R13). -/
  cw : Option Word
  /-- IN_LEN, register 0x01 (R14). -/
  inLen : Option Half
  /-- IN_BUF (R15). -/
  inBuf : Memory
  /-- STATUS, register 0x02 (R16). -/
  status : Byte
  /-- OUT_LEN, register 0x03 (R19). -/
  outLen : Option Word
  /-- REPORT_ID, register 0x04 (R21). -/
  reportId : Option Byte
  /-- DECL_LEN, register 0x05 (R23). -/
  declLen : Option Half
  /-- HDR_B0, register 0x06 (R22). -/
  hdrB0 : Option Byte
  /-- HDR_B1, register 0x07 (R22). -/
  hdrB1 : Option Byte
  /-- HDR_B2, register 0x08 (R22). -/
  hdrB2 : Option Byte
  /-- HDR_B3, register 0x09 (R22). -/
  hdrB3 : Option Byte
  /-- VALUE, register 0x0A: an unsigned number of VALUE_WIDTH bits (R24), a width that depends on the parameters
  (DESIGN CHOICE, assumption 6). -/
  value : Option Nat
  /-- OUT_BUF (R20). -/
  outBuf : Memory
  /-- The host's accesses still to come, in its program order (20_memory.md R41). The model's own field: the host
  agent (10_state.md R10; DESIGN CHOICE, assumption 2). -/
  host : List HostAccess
  /-- What the host's reads have returned, newest first. The model's own field (DESIGN CHOICE, assumption 2). -/
  hostSeen : List Nat
  deriving DecidableEq, Repr

/-- Why the model's run ends without a next state and without a refusal (60_exceptions.md R97). -/
inductive Fault where
  /-- A host read of `⊥`, or an issue that needs a `⊥` operand (10_state.md R26). Raised by the register and buffer
  reads and by `issue`. Safe: the model names no value where the block returns some value (R97). -/
  | readUnwritten
  deriving DecidableEq, Repr

/-- Why the model gives a step no meaning (60_exceptions.md R97). A refusal changes no state. All are safe: a claim
about a run takes their absence as a premise (R97). Which name is given where several grounds hold is DESIGN CHOICE,
assumption 7. -/
inductive Refusal where
  /-- An instruction without a meaning. No arm of `exec` uses it. Safe. -/
  | notModelled (mnemonic : String)
  /-- A configuration outside the ranges of 00_scope.md R4. Raised by `step`. Safe. -/
  | illegalConfig
  /-- A host write of a register or buffer the table of R12 marks read only (10_state.md R28). Raised by
  `hostAccess`. Safe. -/
  | readOnlyWrite
  /-- A host access to a register number 0x0B to 0xFF (R28). Raised by `hostAccess`. Safe. -/
  | unusedRegister
  /-- A host write of a value wider than the register or buffer byte (R28). Raised by `hostAccess`. Safe. -/
  | valueTooWide
  /-- A host access to IN_BUF[i] with `i >= IN_CAP` (R28). Raised by `hostAccess`. Safe. -/
  | inIndexOutOfRange
  /-- A host read of OUT_BUF[i] with `i >= OUT_CAP` (R28). Raised by `hostAccess`. Safe. -/
  | outIndexOutOfRange
  deriving DecidableEq, Repr

/-- What one step, or one instruction, answers. -/
abbrev Result := Host.Outcome State Fault Refusal

/-- The reset state of an FCODEC with parameters `cfg` (10_state.md R30): STATUS 0x00, everything else `⊥`, no host
access pending. -/
def State.resetWith (cfg : Config) : State :=
  { cfg := cfg, cw := none, inLen := none, inBuf := [], status := 0x00#8,
    outLen := none, reportId := none, declLen := none,
    hdrB0 := none, hdrB1 := none, hdrB2 := none, hdrB3 := none, value := none, outBuf := [],
    host := [], hostSeen := [] }

/-- The machine right after reset (R30, 70_reset_and_hazards.md R105), with the default parameters (DESIGN CHOICE,
assumption 1). -/
def State.reset : State := State.resetWith Config.standard

end Sys2Proof.Machine
end

