-- ==== Sys2Proof/Machine/Ops.lean ====
section
/-! DEFINITION. The named operations over buffers and registers, and error entry. -/

namespace Sys2Proof.Machine

/-! ## Byte buffers (10_state.md R15, R20) -/

/-- The canonical form of a buffer: indices strictly rising. (No entry can equal what an unlisted index reads as: that
is `⊥`.) -/
abbrev Memory.Canonical (m : Memory) : Prop := m.Pairwise (fun x y => x.1 < y.1)

/-- Every index of the buffer is below its capacity. -/
abbrev Memory.Below (m : Memory) (cap : Nat) : Prop := ∀ cell ∈ m, cell.1 < cap

/-- Read one byte; `none` is `⊥` (00_scope.md R8). -/
def Memory.read : Memory → Nat → Option Byte
  | [], _ => none
  | (a, b) :: rest, i => if i = a then some b else Memory.read rest i

/-- Write one byte, keeping the canonical form. -/
def Memory.write : Memory → Nat → Byte → Memory
  | [], i, v => [(i, v)]
  | (a, b) :: rest, i, v =>
    if i < a then (i, v) :: (a, b) :: rest
    else if i = a then (i, v) :: rest
    else (a, b) :: Memory.write rest i v

/-- The `n` bytes from index `i` on, in order; `none` if any of them is `⊥` (10_state.md R26). -/
def Memory.readFrom (m : Memory) (i : Nat) : Nat → Option (List Byte)
  | 0 => some []
  | n + 1 =>
    match m.read i, m.readFrom (i + 1) n with
    | some b, some bs => some (b :: bs)
    | _, _ => none

/-- Write bytes from index `i` on, in order. -/
def Memory.writeFrom (m : Memory) (i : Nat) : List Byte → Memory
  | [] => m
  | b :: bs => (m.write i b).writeFrom (i + 1) bs

/-! ## Operands: what only the host writes (10_state.md R14, R15, R27) -/

/-- A host write of IN_LEN only stores the value (20_memory.md R39). -/
def State.storeInLen (v : Half) (s : State) : State := { s with inLen := some v }

/-- A host write of a byte of IN_BUF only stores the value (20_memory.md R39). -/
def State.storeInByte (i : Nat) (v : Byte) (s : State) : State := { s with inBuf := s.inBuf.write i v }

/-- The host's next access is taken from its list; `rest` are the accesses still to come (20_memory.md R41). -/
def State.takeAccess (rest : List HostAccess) (s : State) : State := { s with host := rest }

/-! ## Result registers -/

/-- `Invalidate()`: every result register becomes `⊥` (10_state.md R25). -/
def State.invalidate (s : State) : State :=
  { s with
    outLen := none, reportId := none, outBuf := [],
    hdrB0 := none, hdrB1 := none, hdrB2 := none, hdrB3 := none, declLen := none, value := none }

/-- The start of every issue: CW takes the word, the results become `⊥` (30_encoding.md R49; 10_state.md R13, R25). -/
def State.beginIssue (w : Word) (s : State) : State :=
  State.invalidate { s with cw := some w }

/-- The results of a BUILD (40_frame_build.md R61): the frame in OUT_BUF from byte 0, its length, report id 0x00, KIND
FRAME. -/
def State.putFrame (frame : List Byte) (s : State) : State :=
  { s with
    outBuf := s.outBuf.writeFrom 0 frame
    outLen := some (BitVec.ofNat 32 frame.length)
    reportId := some 0x00#8
    status := statusDone .frame }

/-- The results of a PARSE (41_header_parse.md R76): the four header bytes, the declared length, KIND HEADER. -/
def State.putHeader (b0 b1 b2 b3 : Byte) (declared : Half) (s : State) : State :=
  { s with
    hdrB0 := some b0, hdrB1 := some b1, hdrB2 := some b2, hdrB3 := some b3
    declLen := some declared
    status := statusDone .header }

/-- The result of a COMBBE or DECLE (42_byte_combine.md R84, R85): the combined number, KIND VALUE. -/
def State.putValue (v : Nat) (s : State) : State :=
  { s with value := some v, status := statusDone .value }

/-! ## Errors

There is no handler and no return from an error: the next issue runs whatever STATUS holds (60_exceptions.md R96). -/

/-- What an error records: its code in ERR, KIND NONE (60_exceptions.md R94). -/
def State.putError (err : ErrorCode) (s : State) : State := { s with status := statusError err }

/-- Error entry, `raise Error(code)` (60_exceptions.md R94): STATUS takes the code and the issue ends; the results are
`⊥` since the issue began, and CW, IN_LEN and IN_BUF keep their values. -/
def raiseError (err : ErrorCode) (s : State) : Result := .next (s.putError err)

/-! ## Reset -/

/-- What the host's RESET does to FCODEC (70_reset_and_hazards.md R105, R106): every register and buffer byte takes its
reset value. The parameters and the host's own side stay. -/
def State.applyReset (s : State) : State :=
  { State.resetWith s.cfg with host := s.host, hostSeen := s.hostSeen }

/-! ## The register map -/

/-- The registers of 10_state.md R12. -/
inductive Register where
  | cw | inLen | status | outLen | reportId | declLen | hdrB0 | hdrB1 | hdrB2 | hdrB3 | value
  deriving DecidableEq, Repr

/-- The register of a number; numbers 0x0B to 0xFF are unused (R12). -/
def Register.ofNumber (number : Byte) : Option Register :=
  match number.toNat with
  | 0x00 => some .cw
  | 0x01 => some .inLen
  | 0x02 => some .status
  | 0x03 => some .outLen
  | 0x04 => some .reportId
  | 0x05 => some .declLen
  | 0x06 => some .hdrB0
  | 0x07 => some .hdrB1
  | 0x08 => some .hdrB2
  | 0x09 => some .hdrB3
  | 0x0A => some .value
  | _ => none

/-- The number of a register (R12). -/
def Register.number : Register → Byte
  | .cw => 0x00
  | .inLen => 0x01
  | .status => 0x02
  | .outLen => 0x03
  | .reportId => 0x04
  | .declLen => 0x05
  | .hdrB0 => 0x06
  | .hdrB1 => 0x07
  | .hdrB2 => 0x08
  | .hdrB3 => 0x09
  | .value => 0x0A

/-- What a whole-register read returns, as an unsigned number; `none` is `⊥` (10_state.md R26, R29; 20_memory.md
R36). -/
def State.readRegister (s : State) : Register → Option Nat
  | .cw => s.cw.map BitVec.toNat
  | .inLen => s.inLen.map BitVec.toNat
  | .status => some s.status.toNat
  | .outLen => s.outLen.map BitVec.toNat
  | .reportId => s.reportId.map BitVec.toNat
  | .declLen => s.declLen.map BitVec.toNat
  | .hdrB0 => s.hdrB0.map BitVec.toNat
  | .hdrB1 => s.hdrB1.map BitVec.toNat
  | .hdrB2 => s.hdrB2.map BitVec.toNat
  | .hdrB3 => s.hdrB3.map BitVec.toNat
  | .value => s.value

/-- A completed host read: the host gets the number, FCODEC does not change (R29). -/
def State.deliver (v : Nat) (s : State) : State := { s with hostSeen := v :: s.hostSeen }

/-- The end of a host read of a register or a buffer byte: the value, or the model fault where it is `⊥` (R26). -/
def finishRead (v : Option Nat) (s : State) : Result :=
  match v with
  | some v => .next (s.deliver v)
  | none => .fault .readUnwritten

end Sys2Proof.Machine
end

