-- ==== Sys2Proof/Machine/Operands.lean ====
section
/-! DEFINITION. How an issue takes its operands (30_encoding.md R49, R51): the length from IN_LEN, checked before any
byte is read, then the bytes from IN_BUF, read before any result is written. -/

namespace Sys2Proof.Machine

/-- The operand sequence `[IN[0], ..., IN[n-1]]`; `none` if any of them is `⊥` (10_state.md R15, R26). -/
def State.operand (s : State) (n : Nat) : Option (List Byte) := s.inBuf.readFrom 0 n

/-- `Issue(w)` for a legal word `w` (R49): CW and the results, then the length checks in their order, then the
operation on `n = IN_LEN`. `limit` is the operation's own limit; an operation without one takes `Config.inCap`. -/
def issue (w : Word) (limit : Config → Nat) (perform : Nat → State → Result) (s : State) : Result :=
  let begun := s.beginIssue w
  match begun.inLen with
  | none => .fault .readUnwritten
  | some len =>
    if begun.cfg.inCap < len.toNat then raiseError .operandLength begun
    else if limit begun.cfg < len.toNat then raiseError .operandLength begun
    else perform len.toNat begun

/-- The rest of an operation that needs `n` operand bytes: the model fault if one is `⊥`, with nothing written
(10_state.md R26). -/
def withOperand (n : Nat) (finish : List Byte → State → State) (s : State) : Result :=
  match s.operand n with
  | none => .fault .readUnwritten
  | some bytes => .next (finish bytes s)

/-- Issue of a word that selects no operation (R49, R50): the decode check fails before IN_LEN is read, so this needs no
operand (70_reset_and_hazards.md R108). -/
def issueIllegal (w : Word) (s : State) : Result := raiseError .illegalOp (s.beginIssue w)

end Sys2Proof.Machine
end

