-- ==== Sys2Proof/Machine/Build.lean ====
section
/-! DEFINITION. The frame serializer: BUILD.W and BUILD.R (40_frame_build.md). -/

namespace Sys2Proof.Machine

/-- The direction of a command (00_scope.md glossary). -/
inductive Direction where
  | write
  | read
  deriving DecidableEq, Repr

/-- The flags byte, byte 0 of a frame (30_encoding.md R53; the literals are UNVERIFIED, assumption 9). -/
def flagsOf : Direction → Byte
  | .write => 0x40
  | .read => 0xC0

/-- The length field of a frame of an `n`-byte payload (40_frame_build.md R64; 20_memory.md R33). -/
def lengthField (n : Nat) : Half := BitVec.ofNat 16 (n + 2)

/-- A frame, byte 0 first (30_encoding.md R52): flags, sequence byte 0x00, length LSB, length MSB, the command byte
before the group byte (40_frame_build.md R67), the payload unchanged (R65), no padding (R68). -/
def frameBytes (d : Direction) (group command : Byte) (payload : List Byte) : List Byte :=
  let l := lengthField payload.length
  flagsOf d :: 0x00#8 :: l.extractLsb' 0 8 :: l.extractLsb' 8 8 :: command :: group :: payload

/-- `BuildFrame(d, g, c, n)` (40_frame_build.md R61). -/
def buildFrame (d : Direction) (group command : Byte) (n : Nat) (s : State) : Result :=
  withOperand n (fun payload => State.putFrame (frameBytes d group command payload)) s

/-- BUILD.W (R62). -/
def execBuildW (group command : Byte) (s : State) : Result :=
  issue (encode (.buildW group command)) Config.maxPayload (buildFrame .write group command) s

/-- BUILD.R (R63). -/
def execBuildR (group command : Byte) (s : State) : Result :=
  issue (encode (.buildR group command)) Config.maxPayload (buildFrame .read group command) s

end Sys2Proof.Machine
end

