-- ==== Sys2Proof/Machine/Combine.lean ====
section
/-! DEFINITION. The byte-order combiner: COMBBE and DECLE (42_byte_combine.md). -/

namespace Sys2Proof.Machine

/-- `CombineBE(s)` (42_byte_combine.md R83): the first byte of a sequence of length `k` contributes
`byte << (8 * (k - 1))`, and the rest contributes as a sequence of its own. Unsigned and unbounded (00_scope.md R6,
R9). -/
def combineBE : List Byte → Nat
  | [] => 0
  | b :: rest => (b.toNat <<< (8 * rest.length)) + combineBE rest

/-- The little-endian decode, as the source shapes it: reverse, then combine big-endian (R85, R89). -/
def decodeLE (bytes : List Byte) : Nat := combineBE bytes.reverse

/-- COMBBE (R84). -/
def execCombbe (s : State) : Result :=
  issue (encode .combbe) Config.maxCombine (fun n => withOperand n (fun bytes => State.putValue (combineBE bytes))) s

/-- DECLE (R85). -/
def execDecle (s : State) : Result :=
  issue (encode .decle) Config.maxCombine (fun n => withOperand n (fun bytes => State.putValue (decodeLE bytes))) s

end Sys2Proof.Machine
end

