-- ==== Sys2Proof/Machine/Parse.lean ====
section
/-! DEFINITION. The header parser: PARSE (41_header_parse.md). -/

namespace Sys2Proof.Machine

/-- The declared length of a response: `(byte[3] << 8) | byte[2]` (41_header_parse.md R76; 20_memory.md R34). -/
def declaredLength (b2 b3 : Byte) : Half := (b3.zeroExtend 16 <<< 8) ||| b2.zeroExtend 16

/-- The results of the four header bytes; bytes 0 and 1 are kept unchecked (41_header_parse.md R78). -/
def headerResults (bytes : List Byte) (s : State) : State :=
  match bytes with
  | b0 :: b1 :: b2 :: b3 :: _ => s.putHeader b0 b1 b2 b3 (declaredLength b2 b3)
  | _ => s

/-- The length check of the header and `Parse()` (R76, R77; 30_encoding.md R49): fewer than 4 bytes offered raise
TRUNCATED_HEADER and read no byte; otherwise exactly IN[0] to IN[3] are read, whatever `n` is (R79). -/
def parseHeader (n : Nat) (s : State) : Result :=
  if n < 4 then raiseError .truncatedHeader s else withOperand 4 headerResults s

/-- PARSE (R76). It has no length limit of its own beyond IN_CAP (60_exceptions.md R93). -/
def execParse (s : State) : Result := issue (encode .parse) Config.inCap parseHeader s

end Sys2Proof.Machine
end

