-- ==== Sys2Proof/Machine/Pseudo.lean ====
section
/-! DEFINITION. The command words of the four device commands (40_frame_build.md section 4).

A pseudo-operation means exactly its expansion (R75): host writes of IN_BUF and IN_LEN, then a BUILD. The host writes
are in `Machine/Asm.lean`; what stands here is the BUILD its command word issues, on the operands as the host left
them ("if the host leaves out an IN_BUF write, the issue reads whatever IN_BUF already holds", R75). -/

namespace Sys2Proof.Machine

/-- SCAN: BUILD.W 0x02, 0x18 (R71). -/
def execScan (s : State) : Result :=
  issue (encode .scan) Config.maxPayload (buildFrame .write 0x02#8 0x18#8) s

/-- GETCFG: BUILD.R 0x02, 0x23 (R72). -/
def execGetcfg (s : State) : Result :=
  issue (encode .getcfg) Config.maxPayload (buildFrame .read 0x02#8 0x23#8) s

/-- FSIZE: BUILD.R 0x00, 0x2D; the file id is the payload (R73). -/
def execFsize (s : State) : Result :=
  issue (encode .fsize) Config.maxPayload (buildFrame .read 0x00#8 0x2D#8) s

/-- FCHUNK: BUILD.R 0x00, 0x2E (R74). -/
def execFchunk (s : State) : Result :=
  issue (encode .fchunk) Config.maxPayload (buildFrame .read 0x00#8 0x2E#8) s

end Sys2Proof.Machine
end

