-- ==== Sys2Proof/Machine/Dispatch.lean ====
section
/-! DEFINITION. The meaning of each instruction: the whole issue of its command word (30_encoding.md R49). -/

namespace Sys2Proof.Machine

def exec (i : Instr) (s : State) : Host.Outcome State Fault Refusal :=
  match i with
  | .buildW group command => Sys2Proof.Machine.execBuildW group command s
  | .buildR group command => Sys2Proof.Machine.execBuildR group command s
  | .parse => Sys2Proof.Machine.execParse s
  | .combbe => Sys2Proof.Machine.execCombbe s
  | .decle => Sys2Proof.Machine.execDecle s
  | .scan => Sys2Proof.Machine.execScan s
  | .getcfg => Sys2Proof.Machine.execGetcfg s
  | .fsize => Sys2Proof.Machine.execFsize s
  | .fchunk => Sys2Proof.Machine.execFchunk s

end Sys2Proof.Machine
end

