-- ==== Sys2Proof/Machine/Access.lean ====
section
/-! DEFINITION. The host's accesses (10_state.md sections 2 and 7, 20_memory.md section 3). -/

namespace Sys2Proof.Machine

/-- A host write of `w` to CW is an issue (10_state.md R13): a legal word performs its operation, any other raises
ILLEGAL_OP (30_encoding.md R49, R50). -/
def issueWord (w : Word) (s : State) : Result :=
  match decode w with
  | .ok i => exec i s
  | .error _ => issueIllegal w s

/-- `WR <reg>, <value>` (10_state.md R12, R13, R14, R28; 20_memory.md R39). -/
def writeRegister (number : Byte) (v : Nat) (s : State) : Result :=
  match Register.ofNumber number with
  | none => .refused .unusedRegister
  | some .cw => if v < 2 ^ 32 then issueWord (BitVec.ofNat 32 v) s else .refused .valueTooWide
  | some .inLen =>
    if v < 2 ^ 16 then .next (s.storeInLen (BitVec.ofNat 16 v)) else .refused .valueTooWide
  | some .status => .refused .readOnlyWrite
  | some .outLen => .refused .readOnlyWrite
  | some .reportId => .refused .readOnlyWrite
  | some .declLen => .refused .readOnlyWrite
  | some .hdrB0 => .refused .readOnlyWrite
  | some .hdrB1 => .refused .readOnlyWrite
  | some .hdrB2 => .refused .readOnlyWrite
  | some .hdrB3 => .refused .readOnlyWrite
  | some .value => .refused .readOnlyWrite

/-- `RD <reg>` (10_state.md R12, R26, R28, R29). -/
def readRegister (number : Byte) (s : State) : Result :=
  match Register.ofNumber number with
  | none => .refused .unusedRegister
  | some r => finishRead (s.readRegister r) s

/-- `WR IN[i], <byte>` (R15, R28). -/
def writeInByte (i v : Nat) (s : State) : Result :=
  if i < s.cfg.inCap then
    if v < 2 ^ 8 then .next (s.storeInByte i (BitVec.ofNat 8 v)) else .refused .valueTooWide
  else .refused .inIndexOutOfRange

/-- A host read of IN_BUF[i] (R12, R26, R28). -/
def readInByte (i : Nat) (s : State) : Result :=
  if i < s.cfg.inCap then finishRead ((s.inBuf.read i).map BitVec.toNat) s else .refused .inIndexOutOfRange

/-- `RD OUT[i]` (R12, R20, R26, R28). -/
def readOutByte (i : Nat) (s : State) : Result :=
  if i < s.cfg.outCap then finishRead ((s.outBuf.read i).map BitVec.toNat) s else .refused .outIndexOutOfRange

/-- One access of the host, whole or not at all (20_memory.md R38). -/
def hostAccess (a : HostAccess) (s : State) : Result :=
  match a with
  | .writeReg number v => writeRegister number v s
  | .readReg number => readRegister number s
  | .writeIn i v => writeInByte i v s
  | .readIn i => readInByte i s
  | .writeOut _ _ => .refused .readOnlyWrite
  | .readOut i => readOutByte i s
  | .reset => .next s.applyReset

/-- One step of the pair of agents (10_state.md R10): the host's next access, in its program order (20_memory.md R41).
With none pending FCODEC is idle and nothing changes (60_exceptions.md R104). A configuration outside the legal ranges
is refused (00_scope.md R4). -/
def advance (s : State) : Result :=
  if s.cfg.Legal then
    match s.host with
    | [] => .next s
    | a :: rest => hostAccess a (s.takeAccess rest)
  else .refused .illegalConfig

/-- `s` with the host about to issue `w`. An issue needs IN_LEN written (70_reset_and_hazards.md R108), so where it is
`⊥` it takes 0, what the line of an instruction with no operand bytes writes (30_encoding.md R57; DESIGN CHOICE,
assumption 5). -/
def State.aboutToIssue (s : State) (w : Nat) : State :=
  { s with
    host := .writeReg Register.cw.number w :: s.host
    inLen := some (s.inLen.getD 0) }

end Sys2Proof.Machine
end

