-- ==== Sys2Proof/Machine/Step.lean ====
section
/-! DEFINITION. The step, and where the next instruction is placed for it. -/

namespace Sys2Proof.Machine

/-- One step of the machine: the host's next access to FCODEC (10_state.md R10, R13; 20_memory.md R41). -/
def step (s : State) : Host.Outcome State Fault Refusal := advance s

/-- `s` with the command word `w` as the host's next access, a write of CW: FCODEC fetches nothing, "the host's write
of CW is the instruction" (20_memory.md R43). -/
def State.withFetchWord (s : State) (nbits w : Nat) : State := s.aboutToIssue (w % 2 ^ nbits)

end Sys2Proof.Machine
end

