-- ==== Sys2Proof/Machine/Asm.lean ====
section
/-! DEFINITION. The assembler of 30_encoding.md R57 and R58: a line of text, the line it is, and the host accesses it
stands for. The host runs these; FCODEC sees the accesses only. -/

namespace Sys2Proof.Machine

/-- A line of R57: an operation with its operand bytes, a pseudo-operation (R58), or one raw host access. -/
inductive AsmLine where
  | buildW (group command : Byte) (bytes : List Byte)
  | buildR (group command : Byte) (bytes : List Byte)
  | parse (bytes : List Byte)
  | combbe (bytes : List Byte)
  | decle (bytes : List Byte)
  | scan
  | getcfg
  | fsize (fileId : Byte)
  | fchunk
  | access (a : HostAccess)
  deriving DecidableEq, Repr

/-- `WR IN[i], b0`, `WR IN[i+1], b1`, ... -/
def writeInBytes (i : Nat) : List Byte → List HostAccess
  | [] => []
  | b :: bs => .writeIn i b.toNat :: writeInBytes (i + 1) bs

/-- The host sequence of an operation on operand bytes (R57): the bytes, IN_LEN, then the issue. -/
def issueSequence (i : Instr) (bytes : List Byte) : List HostAccess :=
  writeInBytes 0 bytes ++
    [.writeReg Register.inLen.number bytes.length, .writeReg Register.cw.number (encode i).toNat]

/-- The host accesses a line assembles to (R57); a pseudo-operation means exactly its expansion (R58;
40_frame_build.md R71 to R75). -/
def AsmLine.assemble : AsmLine → List HostAccess
  | .buildW group command bytes => issueSequence (.buildW group command) bytes
  | .buildR group command bytes => issueSequence (.buildR group command) bytes
  | .parse bytes => issueSequence .parse bytes
  | .combbe bytes => issueSequence .combbe bytes
  | .decle bytes => issueSequence .decle bytes
  | .scan => issueSequence (.buildW 0x02 0x18) [0x00]
  | .getcfg => issueSequence (.buildR 0x02 0x23) []
  | .fsize fileId => issueSequence (.buildR 0x00 0x2D) [fileId]
  | .fchunk => issueSequence (.buildR 0x00 0x2E) []
  | .access a => [a]

/-! ## The text of a line

R57 gives the lines by example; blanks, comments and letter case are DESIGN CHOICE, assumption 10. -/

/-- A token already read, unless it is empty. -/
def flushToken (acc : List Char) : List (List Char) := if acc = [] then [] else [acc]

/-- The tokens of a line: runs of characters, parted by blanks, with a comma and each bracket a token of its own; a
semicolon starts a comment. -/
def tokens (acc : List Char) : List Char → List (List Char)
  | [] => flushToken acc
  | c :: cs =>
    if c = ';' then flushToken acc
    else if c = ' ' ∨ c = '\t' then flushToken acc ++ tokens [] cs
    else if c = ',' ∨ c = '[' ∨ c = ']' then flushToken acc ++ [c] :: tokens [] cs
    else tokens (acc ++ [c]) cs

/-- The value of a digit, hexadecimal in either letter case. -/
def digitValue (c : Char) : Option Nat :=
  if '0'.toNat ≤ c.toNat ∧ c.toNat ≤ '9'.toNat then some (c.toNat - '0'.toNat)
  else if 'a'.toNat ≤ c.toNat ∧ c.toNat ≤ 'f'.toNat then some (c.toNat - 'a'.toNat + 10)
  else if 'A'.toNat ≤ c.toNat ∧ c.toNat ≤ 'F'.toNat then some (c.toNat - 'A'.toNat + 10)
  else none

/-- The number of digits in `base`, after `v` already read. -/
def digits (base v : Nat) : List Char → Option Nat
  | [] => some v
  | c :: cs =>
    match digitValue c with
    | some d => if d < base then digits base (v * base + d) cs else none
    | none => none

/-- A number: hexadecimal with `0x`, or decimal (R57). -/
def number : List Char → Option Nat
  | [] => none
  | '0' :: 'x' :: [] => none
  | '0' :: 'x' :: c :: cs => digits 16 0 (c :: cs)
  | c :: cs => digits 10 0 (c :: cs)

/-- A number that fits in a byte. -/
def byteNumber (t : List Char) : Option Byte :=
  match number t with
  | some v => if v < 2 ^ 8 then some (BitVec.ofNat 8 v) else none
  | none => none

/-- The bytes after a first one, and the closing bracket, which ends the line. -/
def moreBytes : List (List Char) → Option (List Byte)
  | [[']']] => some []
  | [','] :: t :: rest =>
    match byteNumber t, moreBytes rest with
    | some b, some bs => some (b :: bs)
    | _, _ => none
  | _ => none

/-- `[<b0>, <b1>, ...]` to the end of the line (R57). -/
def byteList : List (List Char) → Option (List Byte)
  | [['['], [']']] => some []
  | ['['] :: t :: rest =>
    match byteNumber t, moreBytes rest with
    | some b, some bs => some (b :: bs)
    | _, _ => none
  | _ => none

/-- `<group>, <command>, [<b0>, ...]`, group first (R57). -/
def buildOperands : List (List Char) → Option (Byte × Byte × List Byte)
  | g :: [','] :: c :: [','] :: rest =>
    match byteNumber g, byteNumber c, byteList rest with
    | some g, some c, some bs => some (g, c, bs)
    | _, _, _ => none
  | _ => none

/-- The registers by their names (10_state.md R12). -/
def registerNames : List (String × Register) :=
  [("CW", .cw), ("IN_LEN", .inLen), ("STATUS", .status), ("OUT_LEN", .outLen), ("REPORT_ID", .reportId),
    ("DECL_LEN", .declLen), ("HDR_B0", .hdrB0), ("HDR_B1", .hdrB1), ("HDR_B2", .hdrB2), ("HDR_B3", .hdrB3),
    ("VALUE", .value)]

/-- A register, by name or by number. -/
def registerToken (t : List Char) : Option Byte :=
  match registerNames.find? (fun entry => entry.1.toList == t) with
  | some entry => some entry.2.number
  | none => byteNumber t

/-- The operands of `WR` (R57). -/
def writeAccess : List (List Char) → Option HostAccess
  | [['I', 'N'], ['['], i, [']'], [','], v] =>
    match number i, number v with
    | some i, some v => some (.writeIn i v)
    | _, _ => none
  | [r, [','], v] =>
    match registerToken r, number v with
    | some r, some v => some (.writeReg r v)
    | _, _ => none
  | _ => none

/-- The operands of `RD` (R57). -/
def readAccess : List (List Char) → Option HostAccess
  | [['O', 'U', 'T'], ['['], i, [']']] => (number i).map .readOut
  | [r] => (registerToken r).map .readReg
  | _ => none

/-- A line from its operation name and the tokens after it (R57, R58). -/
def lineOf (name : List Char) (rest : List (List Char)) : Option AsmLine :=
  if name = "BUILD.W".toList then (buildOperands rest).map (fun x => .buildW x.1 x.2.1 x.2.2)
  else if name = "BUILD.R".toList then (buildOperands rest).map (fun x => .buildR x.1 x.2.1 x.2.2)
  else if name = "PARSE".toList then (byteList rest).map .parse
  else if name = "COMBBE".toList then (byteList rest).map .combbe
  else if name = "DECLE".toList then (byteList rest).map .decle
  else if name = "SCAN".toList then if rest = [] then some .scan else none
  else if name = "GETCFG".toList then if rest = [] then some .getcfg else none
  else if name = "FSIZE".toList then
    match rest with
    | [t] => (byteNumber t).map .fsize
    | _ => none
  else if name = "FCHUNK".toList then if rest = [] then some .fchunk else none
  else if name = "WR".toList then (writeAccess rest).map .access
  else if name = "RD".toList then (readAccess rest).map .access
  else if name = "RESET".toList then if rest = [] then some (.access .reset) else none
  else none

/-- One line of text (R57); `none` where it is no line of the syntax. -/
def readLine (text : String) : Option AsmLine :=
  match tokens [] text.toList with
  | [] => none
  | name :: rest => lineOf name rest

end Sys2Proof.Machine
end

