-- ==== Sys2Proof/Safety.lean ====
section
/-! DEFINITION. The terms the statements use: what a good state is, what an issue leaves, a run of several steps. -/

namespace Sys2Proof.Machine

/-- Every result register is `⊥` (10_state.md R17, KIND NONE). -/
def State.NoResult (s : State) : Prop :=
  s.outLen = none ∧ s.reportId = none ∧ (∀ i, s.outBuf.read i = none) ∧
    s.hdrB0 = none ∧ s.hdrB1 = none ∧ s.hdrB2 = none ∧ s.hdrB3 = none ∧ s.declLen = none ∧ s.value = none

/-- The results are those of a BUILD of some payload within MAX_PAYLOAD, the others `⊥` (R17, KIND FRAME; R19 to R21;
30_encoding.md R53). -/
def State.HoldsFrame (s : State) : Prop :=
  (∃ n, n ≤ s.cfg.maxPayload ∧ s.outLen = some (BitVec.ofNat 32 (n + 6)) ∧
    ∀ i, (s.outBuf.read i).isSome = true ↔ i < n + 6) ∧
  (s.outBuf.read 0 = some 0x40#8 ∨ s.outBuf.read 0 = some 0xC0#8) ∧ s.outBuf.read 1 = some 0x00#8 ∧
  s.reportId = some 0x00#8 ∧
  s.hdrB0 = none ∧ s.hdrB1 = none ∧ s.hdrB2 = none ∧ s.hdrB3 = none ∧ s.declLen = none ∧ s.value = none

/-- The results are those of a PARSE, the others `⊥` (R17, KIND HEADER; R22, R23). -/
def State.HoldsHeader (s : State) : Prop :=
  (∃ b0 b1 b2 b3 : Byte, s.hdrB0 = some b0 ∧ s.hdrB1 = some b1 ∧ s.hdrB2 = some b2 ∧ s.hdrB3 = some b3 ∧
    s.declLen = some (BitVec.ofNat 16 (b3.toNat * 256 + b2.toNat))) ∧
  s.outLen = none ∧ s.reportId = none ∧ (∀ i, s.outBuf.read i = none) ∧ s.value = none

/-- The result is that of a COMBBE or DECLE, a number of VALUE_WIDTH bits, the others `⊥` (R17, KIND VALUE; R24). -/
def State.HoldsValue (s : State) : Prop :=
  (∃ v, s.value = some v ∧ v < 2 ^ s.cfg.valueWidth) ∧
  s.outLen = none ∧ s.reportId = none ∧ (∀ i, s.outBuf.read i = none) ∧
  s.hdrB0 = none ∧ s.hdrB1 = none ∧ s.hdrB2 = none ∧ s.hdrB3 = none ∧ s.declLen = none

/-- STATUS has one of its seven legal values, and the result registers are the ones its KIND makes valid (R16, R17). -/
def State.ResultsMatchStatus (s : State) : Prop :=
  ((s.status = 0x00#8 ∨ s.status = 0x04#8 ∨ s.status = 0x08#8 ∨ s.status = 0x0C#8) ∧ s.NoResult) ∨
  (s.status = 0x01#8 ∧ s.HoldsFrame) ∨ (s.status = 0x02#8 ∧ s.HoldsHeader) ∨ (s.status = 0x03#8 ∧ s.HoldsValue)

/-- What holds of FCODEC in every state a run reaches. -/
structure State.Invariant (s : State) : Prop where
  /-- The parameters are in their ranges (00_scope.md R4). -/
  legal : s.cfg.Legal
  /-- IN_BUF is in canonical form. -/
  inBufCanonical : s.inBuf.Canonical
  /-- IN_BUF has no byte at IN_CAP or above (10_state.md R15). -/
  inBufBelow : s.inBuf.Below s.cfg.inCap
  /-- OUT_BUF is in canonical form. -/
  outBufCanonical : s.outBuf.Canonical
  /-- OUT_BUF has no byte at OUT_CAP or above (R20; 40_frame_build.md R69). -/
  outBufBelow : s.outBuf.Below s.cfg.outCap
  /-- STATUS and the results agree (R16, R17). -/
  results : s.ResultsMatchStatus

/-- From `s` to `t` an issue of the word `w` happened, as far as what no operation decides: CW holds `w`, IN_LEN and every
byte of IN_BUF are as before (10_state.md R13, R27), and so are the parameters and the host's side. -/
def Issued (w : Word) (s t : State) : Prop :=
  t.cw = some w ∧ t.inLen = s.inLen ∧ (∀ i, t.inBuf.read i = s.inBuf.read i) ∧
    t.cfg = s.cfg ∧ t.host = s.host ∧ t.hostSeen = s.hostSeen

/-- The bytes of `p` stand in IN_BUF from index 0 on. -/
abbrev State.InputIs (s : State) (p : List Byte) : Prop :=
  ∀ (i : Nat) (h : i < p.length), s.inBuf.read i = some p[i]

/-- The results of `t` are the frame of the flags byte, group, command and payload given, byte for byte, and no other
result is valid (30_encoding.md R52; 40_frame_build.md R61, R66 to R68). -/
def State.FrameIs (t : State) (flags group command : Byte) (p : List Byte) : Prop :=
  t.status = 0x01#8 ∧ t.reportId = some 0x00#8 ∧ t.outLen.map BitVec.toNat = some (p.length + 6) ∧
  t.outBuf.read 0 = some flags ∧ t.outBuf.read 1 = some 0x00#8 ∧
  t.outBuf.read 2 = some (BitVec.ofNat 8 ((p.length + 2) % 256)) ∧
  t.outBuf.read 3 = some (BitVec.ofNat 8 ((p.length + 2) / 256)) ∧
  t.outBuf.read 4 = some command ∧ t.outBuf.read 5 = some group ∧
  (∀ (i : Nat) (h : i < p.length), t.outBuf.read (6 + i) = some p[i]) ∧
  (∀ i, p.length + 6 ≤ i → t.outBuf.read i = none) ∧
  t.hdrB0 = none ∧ t.hdrB1 = none ∧ t.hdrB2 = none ∧ t.hdrB3 = none ∧ t.declLen = none ∧ t.value = none

/-- The results of `t` are the header of the four bytes given and no other result is valid (41_header_parse.md R76). -/
def State.HeaderIs (t : State) (b0 b1 b2 b3 : Byte) : Prop :=
  t.status = 0x02#8 ∧ t.hdrB0 = some b0 ∧ t.hdrB1 = some b1 ∧ t.hdrB2 = some b2 ∧ t.hdrB3 = some b3 ∧
  t.declLen.map BitVec.toNat = some (b3.toNat * 256 + b2.toNat) ∧
  t.outLen = none ∧ t.reportId = none ∧ (∀ i, t.outBuf.read i = none) ∧ t.value = none

/-- The result of `t` is the number `v` and no other result is valid (42_byte_combine.md R84). -/
def State.ValueIs (t : State) (v : Nat) : Prop :=
  t.status = 0x03#8 ∧ t.value = some v ∧
  t.outLen = none ∧ t.reportId = none ∧ (∀ i, t.outBuf.read i = none) ∧
  t.hdrB0 = none ∧ t.hdrB1 = none ∧ t.hdrB2 = none ∧ t.hdrB3 = none ∧ t.declLen = none

/-- The largest operand each instruction admits beside IN_CAP (60_exceptions.md R93); PARSE has no limit of its own. -/
def operandLimit (cfg : Config) : Instr → Nat
  | .buildW _ _ => cfg.maxPayload
  | .buildR _ _ => cfg.maxPayload
  | .parse => cfg.inCap
  | .combbe => cfg.maxCombine
  | .decle => cfg.maxCombine
  | .scan => cfg.maxPayload
  | .getcfg => cfg.maxPayload
  | .fsize => cfg.maxPayload
  | .fchunk => cfg.maxPayload

/-- How many operand bytes an issue with operand length `n` reads (10_state.md R15): all of them, but PARSE four. -/
def bytesRead (n : Nat) : Instr → Nat
  | .buildW _ _ => n
  | .buildR _ _ => n
  | .parse => 4
  | .combbe => n
  | .decle => n
  | .scan => n
  | .getcfg => n
  | .fsize => n
  | .fchunk => n

/-- The numbers that are no legal command word (30_encoding.md R50): OP in bits 2:0, RSV_LO in 7:3, RSV_HI in 31:24. -/
def IllegalWord (w : Nat) : Prop :=
  5 ≤ w % 8 ∨ (w % 8 ≤ 1 ∧ (w / 8 % 32 ≠ 0 ∨ w / 2 ^ 24 ≠ 0)) ∨ (2 ≤ w % 8 ∧ w / 8 ≠ 0)

/-- The host accesses with no meaning (10_state.md R28): a write of a read-only register or buffer, an access to an unused
register number, a write of a value too wide, an index outside its buffer. -/
def MeaninglessAccess (cfg : Config) : HostAccess → Prop
  | .writeReg number v =>
    0x02 ≤ number.toNat ∨ (number.toNat = 0x00 ∧ 2 ^ 32 ≤ v) ∨ (number.toNat = 0x01 ∧ 2 ^ 16 ≤ v)
  | .readReg number => 0x0B ≤ number.toNat
  | .writeIn i v => cfg.inCap ≤ i ∨ 2 ^ 8 ≤ v
  | .readIn i => cfg.inCap ≤ i
  | .writeOut _ _ => True
  | .readOut i => cfg.outCap ≤ i
  | .reset => False

/-- The accesses that read (10_state.md R29). -/
def HostAccess.isRead : HostAccess → Bool
  | .readReg _ => true
  | .readIn _ => true
  | .readOut _ => true
  | .writeReg _ _ => false
  | .writeIn _ _ => false
  | .writeOut _ _ => false
  | .reset => false

/-- `k` steps; a fault or a refusal ends the run (60_exceptions.md R97). -/
def run : Nat → State → Result
  | 0, s => .next s
  | k + 1, s =>
    match step s with
    | .next t => run k t
    | .fault r => .fault r
    | .refused r => .refused r

end Sys2Proof.Machine
end

