-- ==== Sys2Proof/Certificates/Slice0/Obligations.lean ====
section
/-! DEFINITION. The statements for the provers, from the numbered rules of spec/. -/

open Sys2Proof Sys2Proof.Machine

/-! ## Reset, the invariant and the step -/

/-- 10_state.md R30: after reset STATUS is 0x00 and every other register and buffer byte is `⊥`, whatever the
parameters. The default parameters and the host's empty side are the model's (assumptions 1 and 2) and not stated. -/
def Obligations.ResetStateHoldsSpecValues : Prop :=
  (∀ cfg : Config, ∀ s, s = State.resetWith cfg →
    s.status = 0x00#8 ∧ s.cw = none ∧ s.inLen = none ∧ (∀ i, s.inBuf.read i = none) ∧ s.NoResult) ∧
  ∃ cfg : Config, cfg.Legal ∧ State.reset = State.resetWith cfg

/-- The reset state of every legal configuration meets the invariant, and State.reset does. That State.reset has legal
parameters is the model's choice of the defaults (assumption 1). -/
def Obligations.ResetStateMeetsInvariant : Prop :=
  (∀ cfg : Config, cfg.Legal → (State.resetWith cfg).Invariant) ∧ State.reset.Invariant

/-- The invariant is kept by every step: the parameters stay legal, both buffers stay in canonical form and within
their capacities, STATUS stays one of its seven legal values and the valid result registers are those of its KIND
(R16, R17, R19 to R24). -/
def Obligations.EveryStepKeepsInvariant : Prop :=
  ∀ s t : State, s.Invariant → step s = .next t → t.Invariant

/-- A host write to CW of a word that decodes to an instruction runs that instruction; the step itself only takes the
access from the host's list (10_state.md R13; 30_encoding.md R49). The list is the model's host agent (assumption 2). -/
def Obligations.StepRunsDecodedInstruction : Prop :=
  ∀ (s : State) (rest : List HostAccess) (v : Nat) (i : Instr),
    s.cfg.Legal → s.host = .writeReg 0x00#8 v :: rest → v < 2 ^ 32 → decode (BitVec.ofNat 32 v) = .ok i →
    step s = exec i { s with host := rest }

/-- The placed command word is the instruction the next step runs. The placing as a host write, and that an IN_LEN
of `⊥` becomes 0, are the model's choices (assumptions 2 and 5). -/
def Obligations.PlacedWordRunsNext : Prop :=
  ∀ (s : State) (nbits w : Nat) (i : Instr), s.cfg.Legal → decodeTableWord nbits w = some i →
    step (s.withFetchWord nbits w) = exec i { s with inLen := some (s.inLen.getD 0) }

/-- A configuration outside the ranges of 00_scope.md R4 is refused at every step. That the refusal comes at a step is the model's
choice (assumption 1). -/
def Obligations.IllegalConfigurationIsRefused : Prop :=
  ∀ s : State,
    ¬ (4 ≤ s.cfg.inCap ∧ s.cfg.maxPayload ≤ s.cfg.inCap ∧ s.cfg.maxCombine ≤ s.cfg.inCap ∧ s.cfg.inCap ≤ 65535 ∧
        s.cfg.maxPayload ≤ 65533 ∧ 1 ≤ s.cfg.maxCombine) ↔
    step s = .refused .illegalConfig

/-- FCODEC is idle between accesses, and idleness changes no state (60_exceptions.md R104; 70_reset_and_hazards.md
R107). That such a step exists is the model's choice (assumption 2). -/
def Obligations.IdleStepChangesNothing : Prop :=
  ∀ s : State, s.cfg.Legal → s.host = [] → step s = .next s

/-- RESET sets STATUS to 0x00 and every other register and every byte of both buffers to `⊥`, raises no error and writes
nothing else (70_reset_and_hazards.md R106). -/
def Obligations.ResetAccessSetsEveryRegister : Prop :=
  ∀ (s : State) (rest : List HostAccess), s.cfg.Legal → s.host = .reset :: rest →
    ∃ t, step s = .next t ∧ t.status = 0x00#8 ∧ t.cw = none ∧ t.inLen = none ∧ (∀ i, t.inBuf.read i = none) ∧
      t.NoResult ∧ t.cfg = s.cfg ∧ t.host = rest ∧ t.hostSeen = s.hostSeen

/-- No access changes the parameters, and each step takes exactly one access (10_state.md R31; 20_memory.md R41). The list
of accesses is the model's (assumption 2). -/
def Obligations.EveryStepTakesOneAccess : Prop :=
  ∀ s t : State, step s = .next t → t.cfg = s.cfg ∧ t.host = s.host.tail

/-! ## Encoding -/

/-- One word of each row of the table, written out from 30_encoding.md R46 and R48 and 40_frame_build.md R62, R63, R71 to
R74, and two illegal words of R50: one of OP 5, and one of OP 0 with bit 3 set. That the words of SCAN, GETCFG, FSIZE and
FCHUNK decode to constructors of their own is the model's choice (assumption 4). -/
def Obligations.DecodeReadsSpecWords : Prop :=
  decode 0x00CDAB00#32 = .ok (.buildW 0xAB#8 0xCD#8) ∧ decode 0x00CDAB01#32 = .ok (.buildR 0xAB#8 0xCD#8) ∧
  decode 0x00000002#32 = .ok .parse ∧ decode 0x00000003#32 = .ok .combbe ∧ decode 0x00000004#32 = .ok .decle ∧
  decode 0x00180200#32 = .ok .scan ∧ decode 0x00230201#32 = .ok .getcfg ∧ decode 0x002D0001#32 = .ok .fsize ∧
  decode 0x002E0001#32 = .ok .fchunk ∧ decode 0x00000005#32 = .error .reservedOp ∧
  decode 0x00000008#32 = .error .reservedBit

/-- Decoding the command word of a well-formed instruction gives it back, every operand byte at every value. A BUILD that
is not well formed has the word of a pseudo-operation, and its word decodes to that one: the model's choice (assumption
4). -/
def Obligations.DecodeInvertsEncode : Prop :=
  (∀ i : Instr, i.wellFormed = true → decode (encode i) = .ok i) ∧
  (∀ i : Instr, decode (encode i) = .ok i.canonical ∧ i.canonical.wellFormed = true ∧ encode i.canonical = encode i)

/-- A word that decodes is the command word of its instruction: no bit of it is dropped, and the instruction is well
formed. That the four pseudo-operation words have names of their own is the model's choice (assumption 4). -/
def Obligations.EncodeInvertsDecode : Prop :=
  ∀ (w : Word) (i : Instr), decode w = .ok i → encode i = w ∧ i.wellFormed = true

/-- 30_encoding.md R50: a word is refused by the decoder exactly where it has OP 5, 6 or 7, OP 0 or 1 with a bit of 7:3
or 31:24 set, or OP 2, 3 or 4 with a bit of 31:3 set; issuing such a word raises ILLEGAL_OP. Every other word is one of the
five operations, and its issue does not raise ILLEGAL_OP. -/
def Obligations.DecodeRefusesExactlyIllegalWords : Prop :=
  ∀ w : Word,
    ((∃ e, decode w = .error e) ↔
      (5 ≤ w.toNat % 8 ∨ (w.toNat % 8 ≤ 1 ∧ (w.toNat / 8 % 32 ≠ 0 ∨ w.toNat / 2 ^ 24 ≠ 0)) ∨
        (2 ≤ w.toNat % 8 ∧ w.toNat / 8 ≠ 0))) ∧
    ((∃ e, decode w = .error e) → ∀ s : State, ∃ t, issueWord w s = .next t ∧ t.status = 0x08#8) ∧
    ((¬ ∃ e, decode w = .error e) → ∃ i, decode w = .ok i ∧ i.op.toNat = w.toNat % 8 ∧ i.op.toNat ≤ 4 ∧
      ∀ s t : State, issueWord w s = .next t → t.status ≠ 0x08#8)

/-- The fields of a legal word as R47 and R48 read them: OP selects the operation, and for a BUILD bits 15:8 are the group
byte and bits 23:16 the command byte, a pseudo-operation being its expansion. -/
def Obligations.DecodedInstructionHasTheWordsFields : Prop :=
  ∀ (w : Word) (i : Instr), decode w = .ok i →
    (w.toNat % 8 = 0 → i.expansion = .buildW (BitVec.ofNat 8 (w.toNat / 2 ^ 8)) (BitVec.ofNat 8 (w.toNat / 2 ^ 16))) ∧
    (w.toNat % 8 = 1 → i.expansion = .buildR (BitVec.ofNat 8 (w.toNat / 2 ^ 8)) (BitVec.ofNat 8 (w.toNat / 2 ^ 16))) ∧
    (w.toNat % 8 = 2 → i = .parse) ∧ (w.toNat % 8 = 3 → i = .combbe) ∧ (w.toNat % 8 = 4 → i = .decle) ∧
    w.toNat % 8 ≤ 4

/-- 30_encoding.md R59: a word selects a row of opcode_table.json when the masked word equals the row's match. The rows of
BUILD.W and BUILD.R hold the words of their operation, and the other rows fix every bit. The words of SCAN, GETCFG, FSIZE
and FCHUNK (40_frame_build.md R71 to R74) select a BUILD row too: that they decode to the pseudo-operation is the model's
choice (assumption 4). -/
def Obligations.TableRowsSelectTheirInstructions : Prop :=
  ∀ w : Word,
    (w &&& 0xFF0000FF#32 = 0x00000000#32 ↔ ∃ i, decode w = .ok i ∧ i.op = 0) ∧
    (w &&& 0xFF0000FF#32 = 0x00000001#32 ↔ ∃ i, decode w = .ok i ∧ i.op = 1) ∧
    (w = 0x00000002#32 ↔ decode w = .ok .parse) ∧ (w = 0x00000003#32 ↔ decode w = .ok .combbe) ∧
    (w = 0x00000004#32 ↔ decode w = .ok .decle) ∧ (w = 0x00180200#32 ↔ decode w = .ok .scan) ∧
    (w = 0x00230201#32 ↔ decode w = .ok .getcfg) ∧ (w = 0x002D0001#32 ↔ decode w = .ok .fsize) ∧
    (w = 0x002E0001#32 ↔ decode w = .ok .fchunk)

/-! ## The frame serializer -/

/-- BUILD.W and BUILD.R with an admitted payload length: where the payload bytes are written, the operation completes with
the frame of 30_encoding.md R52, byte for byte, flags 0x40 for BUILD.W and 0xC0 for BUILD.R, OUT_LEN, REPORT_ID and STATUS as
40_frame_build.md R61 has them; CW is the word of the operands, and IN_LEN, IN_BUF, and the host's side are as before. Where a
payload byte is `⊥` it is the model fault. -/
def Obligations.BuildsSerializeTheirFrame : Prop :=
  ∀ (g c : Byte) (s : State) (n : Half), s.cfg.Legal → s.inLen = some n → n.toNat ≤ s.cfg.maxPayload →
    (∀ p : List Byte, p.length = n.toNat → s.InputIs p →
      (∃ t, exec (.buildW g c) s = .next t ∧ t.FrameIs 0x40#8 g c p ∧
        Issued (BitVec.ofNat 32 (c.toNat * 65536 + g.toNat * 256)) s t) ∧
      (∃ t, exec (.buildR g c) s = .next t ∧ t.FrameIs 0xC0#8 g c p ∧
        Issued (BitVec.ofNat 32 (c.toNat * 65536 + g.toNat * 256 + 1)) s t)) ∧
    ((∃ k, k < n.toNat ∧ s.inBuf.read k = none) →
      exec (.buildW g c) s = .fault .readUnwritten ∧ exec (.buildR g c) s = .fault .readUnwritten)

/-- SCAN, GETCFG, FSIZE and FCHUNK complete on every admitted, written payload, with the frame of the BUILD they stand for
(40_frame_build.md R71 to R75); what they leave unchanged is what a BUILD leaves. That an
instruction of that name reads the payload as the host left it is the model's reading (assumption 4). -/
def Obligations.PseudoOperationsSerializeTheirFrame : Prop :=
  ∀ (s : State) (n : Half) (p : List Byte), s.cfg.Legal → s.inLen = some n → n.toNat ≤ s.cfg.maxPayload →
    p.length = n.toNat → s.InputIs p →
    (∃ t, exec .scan s = .next t ∧ t.FrameIs 0x40#8 0x02#8 0x18#8 p ∧ Issued 0x00180200#32 s t) ∧
    (∃ t, exec .getcfg s = .next t ∧ t.FrameIs 0xC0#8 0x02#8 0x23#8 p ∧ Issued 0x00230201#32 s t) ∧
    (∃ t, exec .fsize s = .next t ∧ t.FrameIs 0xC0#8 0x00#8 0x2D#8 p ∧ Issued 0x002D0001#32 s t) ∧
    (∃ t, exec .fchunk s = .next t ∧ t.FrameIs 0xC0#8 0x00#8 0x2E#8 p ∧ Issued 0x002E0001#32 s t)

/-- A pseudo-operation has no effect beyond the BUILD it stands for (40_frame_build.md R75). That the table's rows are
instructions of their own in the model is its choice (assumption 4). -/
def Obligations.PseudoOperationsAreTheirBuild : Prop :=
  ∀ s : State, exec .scan s = exec (.buildW 0x02#8 0x18#8) s ∧ exec .getcfg s = exec (.buildR 0x02#8 0x23#8) s ∧
    exec .fsize s = exec (.buildR 0x00#8 0x2D#8) s ∧ exec .fchunk s = exec (.buildR 0x00#8 0x2E#8) s

/-- Byte 0 of a frame is 0x40 for a Write command and 0xC0 for a Read command, and no other value (30_encoding.md R53). -/
def Obligations.FlagsByteIsOneOfTwo : Prop :=
  flagsOf .write = 0x40#8 ∧ flagsOf .read = 0xC0#8 ∧ flagsOf .write ^^^ flagsOf .read = 0x80#8 ∧
  ∀ (i : Instr) (s t : State), exec i s = .next t → t.status = 0x01#8 →
    (i.op = 0 ∧ t.outBuf.read 0 = some 0x40#8) ∨ (i.op = 1 ∧ t.outBuf.read 0 = some 0xC0#8)

/-- A frame's length follows from its bytes 2 and 3: `total = 4 + ((byte[3] << 8) | byte[2])`, which is `n + 6`
(30_encoding.md R54), and it fits in OUT_BUF (40_frame_build.md R69). -/
def Obligations.FrameLengthFollowsFromItsBytes : Prop :=
  ∀ (i : Instr) (s t : State), s.cfg.Legal → exec i s = .next t → t.status = 0x01#8 →
    ∃ b2 b3 : Byte, ∃ n : Half, t.outBuf.read 2 = some b2 ∧ t.outBuf.read 3 = some b3 ∧ s.inLen = some n ∧
      4 + (b3.toNat <<< 8 ||| b2.toNat) = n.toNat + 6 ∧ t.outLen.map BitVec.toNat = some (n.toNat + 6) ∧
      n.toNat + 6 ≤ t.cfg.outCap

/-- Round trip (40_frame_build.md R70): a frame that a BUILD made, written to IN_BUF with its length as IN_LEN where it
fits, parses to the declared length `n + 2` and keeps the frame's first four bytes. -/
def Obligations.ParseOfBuiltFrameGivesItsLength : Prop :=
  ∀ (i : Instr) (s t u : State) (n m : Half), s.cfg.Legal → s.inLen = some n → exec i s = .next t → t.status = 0x01#8 →
    u.cfg = s.cfg → u.inLen = some m → m.toNat = n.toNat + 6 → m.toNat ≤ u.cfg.inCap →
    (∀ k, k < n.toNat + 6 → u.inBuf.read k = t.outBuf.read k) →
    ∃ v, exec .parse u = .next v ∧ v.status = 0x02#8 ∧ v.declLen.map BitVec.toNat = some (n.toNat + 2) ∧
      v.hdrB0 = t.outBuf.read 0 ∧ ((i.op = 0 ∧ v.hdrB0 = some 0x40#8) ∨ (i.op = 1 ∧ v.hdrB0 = some 0xC0#8)) ∧
      v.hdrB1 = some 0x00#8 ∧ v.hdrB2 = some (BitVec.ofNat 8 ((n.toNat + 2) % 256)) ∧
      v.hdrB3 = some (BitVec.ofNat 8 ((n.toNat + 2) / 256))

/-! ## The header parser -/

/-- PARSE of at least four bytes (and at most IN_CAP): where IN[0] to IN[3] are written it completes with the four bytes,
bytes 0 and 1 unchecked and unchanged, and the declared length, whatever else IN_BUF holds and whatever the length offered
(41_header_parse.md R76, R78, R79); where one of the four is `⊥` it is the model fault. -/
def Obligations.ParseKeepsFourBytesAndDeclaresLength : Prop :=
  ∀ (s : State) (n : Half), s.inLen = some n → 4 ≤ n.toNat → n.toNat ≤ s.cfg.inCap →
    (∀ b0 b1 b2 b3 : Byte, s.inBuf.read 0 = some b0 → s.inBuf.read 1 = some b1 → s.inBuf.read 2 = some b2 →
      s.inBuf.read 3 = some b3 →
      ∃ t, exec .parse s = .next t ∧ t.HeaderIs b0 b1 b2 b3 ∧ Issued 0x00000002#32 s t) ∧
    ((∃ k, k < 4 ∧ s.inBuf.read k = none) → exec .parse s = .fault .readUnwritten)

/-- A PARSE with IN_LEN 0, 1, 2 or 3 raises TRUNCATED_HEADER, whatever IN_BUF holds (it reads no byte), and writes no
header register and no DECL_LEN (41_header_parse.md R77). -/
def Obligations.ShortParseRaisesTruncatedHeader : Prop :=
  ∀ (s : State) (n : Half), s.cfg.Legal → s.inLen = some n → n.toNat < 4 →
    ∃ t, exec .parse s = .next t ∧ t.status = 0x04#8 ∧ t.NoResult ∧ Issued 0x00000002#32 s t

/-- DECL_LEN agrees with the combiner (41_header_parse.md R81): for response bytes `b2` and `b3` it equals the VALUE of
DECLE [b2, b3] and of COMBBE [b3, b2], all three `b3 * 256 + b2`. -/
def Obligations.DeclaredLengthAgreesWithCombiner : Prop :=
  ∀ (s u v : State) (b0 b1 b2 b3 : Byte),
    s.cfg.Legal → s.inLen = some 4#16 → s.InputIs [b0, b1, b2, b3] →
    u.cfg.Legal → 2 ≤ u.cfg.maxCombine → u.inLen = some 2#16 → u.InputIs [b2, b3] →
    v.cfg.Legal → 2 ≤ v.cfg.maxCombine → v.inLen = some 2#16 → v.InputIs [b3, b2] →
    ∃ s' u' v', exec .parse s = .next s' ∧ exec .decle u = .next u' ∧ exec .combbe v = .next v' ∧
      s'.declLen.map BitVec.toNat = some (b3.toNat * 256 + b2.toNat) ∧
      u'.value = some (b3.toNat * 256 + b2.toNat) ∧ v'.value = some (b3.toNat * 256 + b2.toNat)

/-! ## The byte-order combiner -/

/-- COMBBE with an admitted operand: where the bytes are written it completes with the sum of the contributions
`bytes[i] << (8 * (length - 1 - i))` (42_byte_combine.md R83, R84); where one is `⊥` it is the model fault. -/
def Obligations.CombbeSumsBigEndianContributions : Prop :=
  ∀ (s : State) (n : Half), s.cfg.Legal → s.inLen = some n → n.toNat ≤ s.cfg.maxCombine →
    (∀ p : List Byte, p.length = n.toNat → s.InputIs p →
      ∃ t, exec .combbe s = .next t ∧
        t.ValueIs (∑ i : Fin p.length, p[i].toNat <<< (8 * (p.length - 1 - i.val))) ∧ Issued 0x00000003#32 s t) ∧
    ((∃ k, k < n.toNat ∧ s.inBuf.read k = none) → exec .combbe s = .fault .readUnwritten)

/-- DECLE with an admitted operand: where the bytes are written it completes with the sum of `s[i] << (8 * i)`, the first
byte least significant (42_byte_combine.md R85, R87); where one is `⊥` it is the model fault. -/
def Obligations.DecleSumsLittleEndianContributions : Prop :=
  ∀ (s : State) (n : Half), s.cfg.Legal → s.inLen = some n → n.toNat ≤ s.cfg.maxCombine →
    (∀ p : List Byte, p.length = n.toNat → s.InputIs p →
      ∃ t, exec .decle s = .next t ∧ t.ValueIs (∑ i : Fin p.length, p[i].toNat <<< (8 * i.val)) ∧
        Issued 0x00000004#32 s t) ∧
    ((∃ k, k < n.toNat ∧ s.inBuf.read k = none) → exec .decle s = .fault .readUnwritten)

/-- The empty sequence combines to 0: COMBBE and DECLE with IN_LEN = 0 both succeed with VALUE = 0, whatever IN_BUF
holds (42_byte_combine.md R86). -/
def Obligations.EmptySequenceCombinesToZero : Prop :=
  ∀ s : State, s.inLen = some 0#16 →
    (∃ t, exec .combbe s = .next t ∧ t.ValueIs 0 ∧ Issued 0x00000003#32 s t) ∧
    (∃ t, exec .decle s = .next t ∧ t.ValueIs 0 ∧ Issued 0x00000004#32 s t)

/-- Range (42_byte_combine.md R88): an operand of `n` bytes gives at most `2^(8n) - 1`, exactly where every byte is 0xFF,
in either order of bytes. A VALUE that an instruction leaves is exactly the combined value of its operand, the IN_LEN
bytes of IN_BUF, so at most `2^(8n) - 1`, and it is below `2^VALUE_WIDTH`, 32 bits at the default. That VALUE is a natural
number, whose width the statement must give, is the model's choice (assumption 6). -/
def Obligations.CombinedValueFitsItsWidth : Prop :=
  (∀ p : List Byte,
    combineBE p ≤ 2 ^ (8 * p.length) - 1 ∧ (combineBE p = 2 ^ (8 * p.length) - 1 ↔ ∀ b ∈ p, b = 0xFF#8) ∧
    decodeLE p ≤ 2 ^ (8 * p.length) - 1 ∧ (decodeLE p = 2 ^ (8 * p.length) - 1 ↔ ∀ b ∈ p, b = 0xFF#8)) ∧
  (∀ (i : Instr) (s t : State) (v : Nat), exec i s = .next t → t.value = some v →
    ∃ (n : Half) (p : List Byte), s.inLen = some n ∧ p.length = n.toNat ∧ s.InputIs p ∧
      ((i = .combbe ∧ v = combineBE p) ∨ (i = .decle ∧ v = decodeLE p)) ∧
      v ≤ 2 ^ (8 * n.toNat) - 1 ∧ v < 2 ^ t.cfg.valueWidth) ∧
  Config.standard.valueWidth = 32

/-- `CombineBE(s)` of 42_byte_combine.md R83, for a sequence of any length: the sum of the contributions
`s[i] << (8 * (k - 1 - i))`, and "the same value is given by the loop" that multiplies by 256 and adds. DECLE's number is
the sum with the first byte least significant (R87). -/
def Obligations.CombineIsItsSumAndItsLoop : Prop :=
  ∀ p : List Byte,
    combineBE p = ∑ i : Fin p.length, p[i].toNat <<< (8 * (p.length - 1 - i.val)) ∧
    combineBE p = p.foldl (fun v b => v * 256 + b.toNat) 0 ∧
    decodeLE p = ∑ i : Fin p.length, p[i].toNat <<< (8 * i.val)

/-- The decode loses nothing: two operands of the same length with the same VALUE are the same bytes, in either order of
bytes (42_byte_combine.md R83, R85: the contributions occupy disjoint byte positions). -/
def Obligations.CombineDeterminesItsBytes : Prop :=
  ∀ p q : List Byte, p.length = q.length →
    (combineBE p = combineBE q → p = q) ∧ (decodeLE p = decodeLE q → p = q)

/-! ## Errors and model faults -/

/-- ILLEGAL_OP is raised by an issue whose command word is illegal, whatever IN_LEN and IN_BUF hold, and writes nothing but
CW, STATUS and the invalidated results (60_exceptions.md R92; 70_reset_and_hazards.md R108). -/
def Obligations.IllegalWordRaisesIllegalOp : Prop :=
  ∀ (s : State) (rest : List HostAccess) (v : Nat),
    s.cfg.Legal → s.host = .writeReg 0x00#8 v :: rest → v < 2 ^ 32 →
    (5 ≤ v % 8 ∨ (v % 8 ≤ 1 ∧ (v / 8 % 32 ≠ 0 ∨ v / 2 ^ 24 ≠ 0)) ∨ (2 ≤ v % 8 ∧ v / 8 ≠ 0)) →
    ∃ t, step s = .next t ∧ t.status = 0x08#8 ∧ t.NoResult ∧ Issued (BitVec.ofNat 32 v) { s with host := rest } t

/-- OPERAND_LENGTH is raised by an issue with a legal command word exactly when IN_LEN is larger than the operation
admits: `IN_LEN > IN_CAP` for any operation, `IN_LEN > MAX_PAYLOAD` for the BUILDs, `IN_LEN > MAX_COMBINE` for COMBBE and
DECLE (60_exceptions.md R93). -/
def Obligations.OperandLengthRaisedExactlyWhenTooLong : Prop :=
  ∀ (i : Instr) (s : State),
    (∃ t, exec i s = .next t ∧ t.status = 0x0C#8) ↔
    ∃ n : Half, s.inLen = some n ∧
      (s.cfg.inCap < n.toNat ∨ ((i.op = 0 ∨ i.op = 1) ∧ s.cfg.maxPayload < n.toNat) ∨
        ((i.op = 3 ∨ i.op = 4) ∧ s.cfg.maxCombine < n.toNat))

/-- TRUNCATED_HEADER is raised by a PARSE whose IN_LEN is less than 4, and by no other operation (60_exceptions.md R91). -/
def Obligations.TruncatedHeaderOnlyFromShortParse : Prop :=
  ∀ (i : Instr) (s : State), s.cfg.Legal →
    ((∃ t, exec i s = .next t ∧ t.status = 0x04#8) ↔ i = .parse ∧ ∃ n : Half, s.inLen = some n ∧ n.toNat < 4)

/-- Errors are precise (60_exceptions.md R94): the state after an issue that raised an error is the state before it, with
CW set to the issued word, every result register `⊥` and STATUS set to the code in ERR with KIND NONE. -/
def Obligations.ErrorsArePrecise : Prop :=
  ∀ (s t : State) (rest : List HostAccess) (v : Nat), s.host = .writeReg 0x00#8 v :: rest → step s = .next t →
    t.status.toNat / 4 ≠ 0 →
    (t.status = 0x04#8 ∨ t.status = 0x08#8 ∨ t.status = 0x0C#8) ∧
    t = { s with
      host := rest, cw := some (BitVec.ofNat 32 v), status := t.status,
      outLen := none, reportId := none, outBuf := [], hdrB0 := none, hdrB1 := none, hdrB2 := none, hdrB3 := none,
      declLen := none, value := none }

/-- Priority (60_exceptions.md R95, 30_encoding.md R49): ILLEGAL_OP before IN_LEN is read, then the model fault for IN_LEN,
then OPERAND_LENGTH, then TRUNCATED_HEADER, then the model fault for an operand byte. -/
def Obligations.ChecksOfAnIssueRunInOrder : Prop :=
  ∀ (s : State) (rest : List HostAccess) (v : Nat),
    s.cfg.Legal → s.host = .writeReg 0x00#8 v :: rest → v < 2 ^ 32 →
    (IllegalWord v → ∃ t, step s = .next t ∧ t.status = 0x08#8) ∧
    (¬ IllegalWord v →
      (s.inLen = none → step s = .fault .readUnwritten) ∧
      ∀ n : Half, s.inLen = some n →
        ((s.cfg.inCap < n.toNat ∨ (v % 8 ≤ 1 ∧ s.cfg.maxPayload < n.toNat) ∨ (3 ≤ v % 8 ∧ s.cfg.maxCombine < n.toNat)) →
          ∃ t, step s = .next t ∧ t.status = 0x0C#8) ∧
        (¬ (s.cfg.inCap < n.toNat ∨ (v % 8 ≤ 1 ∧ s.cfg.maxPayload < n.toNat) ∨
            (3 ≤ v % 8 ∧ s.cfg.maxCombine < n.toNat)) →
          (v % 8 = 2 ∧ n.toNat < 4 → ∃ t, step s = .next t ∧ t.status = 0x04#8) ∧
          (¬ (v % 8 = 2 ∧ n.toNat < 4) →
            ((∃ k, k < (if v % 8 = 2 then 4 else n.toNat) ∧ s.inBuf.read k = none) → step s = .fault .readUnwritten) ∧
            ((∀ k, k < (if v % 8 = 2 then 4 else n.toNat) → s.inBuf.read k ≠ none) →
              ∃ t, step s = .next t ∧
                t.status.toNat = if v % 8 ≤ 1 then 0x01 else if v % 8 = 2 then 0x02 else 0x03))))

/-- An instruction is never refused, and it faults exactly where it needs an operand that holds `⊥`: IN_LEN, or, with the
lengths admitted, a byte it reads (10_state.md R26; 70_reset_and_hazards.md R108). -/
def Obligations.InstructionFaultsExactlyOnUnwrittenOperand : Prop :=
  ∀ (i : Instr) (s : State),
    (∀ r, exec i s ≠ .refused r) ∧
    (exec i s = .fault .readUnwritten ↔
      s.inLen = none ∨ ∃ n : Half, s.inLen = some n ∧ n.toNat ≤ s.cfg.inCap ∧ n.toNat ≤ operandLimit s.cfg i ∧
        (i = .parse → 4 ≤ n.toNat) ∧ ∃ k, k < bytesRead n.toNat i ∧ s.inBuf.read k = none)

/-! ## What an issue reads, writes and leaves -/

/-- No operation writes IN_LEN, any byte of IN_BUF, or CW other than by the issuing write itself (10_state.md R27). -/
def Obligations.OperandsPersistAcrossIssues : Prop :=
  ∀ (s t : State) (rest : List HostAccess) (v : Nat), s.host = .writeReg 0x00#8 v :: rest → step s = .next t →
    t.inLen = s.inLen ∧ t.inBuf = s.inBuf ∧ (∀ i, t.inBuf.read i = s.inBuf.read i) ∧
    v < 2 ^ 32 ∧ t.cw = some (BitVec.ofNat 32 v) ∧ t.cfg = s.cfg ∧ t.host = rest ∧ t.hostSeen = s.hostSeen

/-- After every issue, from whatever state, STATUS has a legal value and the valid result registers are exactly those of
its KIND: results of an earlier issue never survive (10_state.md R16, R17, R25). -/
def Obligations.IssueLeavesOnlyItsOwnResults : Prop :=
  ∀ (s t : State) (rest : List HostAccess) (v : Nat), s.host = .writeReg 0x00#8 v :: rest → step s = .next t →
    t.ResultsMatchStatus

/-- The outcome of an instruction depends on nothing but the parameters, IN_LEN and the operand bytes it reads: two states
that agree on those have the same outcome and the same registers after it, whatever CW, STATUS, earlier results, other bytes
of IN_BUF and the host's side hold (10_state.md R15, R25; 40_frame_build.md R65; 60_exceptions.md R96). -/
def Obligations.OutcomeDependsOnOperandsOnly : Prop :=
  ∀ (i : Instr) (s s' : State), s'.cfg = s.cfg → s'.inLen = s.inLen →
    (∀ n : Half, s.inLen = some n → ∀ k, k < bytesRead n.toNat i → s'.inBuf.read k = s.inBuf.read k) →
    (∀ t, exec i s = .next t →
      exec i s' = .next { t with inBuf := s'.inBuf, host := s'.host, hostSeen := s'.hostSeen }) ∧
    (exec i s = .fault .readUnwritten → exec i s' = .fault .readUnwritten)

/-! ## Host accesses -/

/-- A host read of a register returns what it holds as one unsigned number and changes nothing of FCODEC; where it holds
`⊥` it is the model fault (10_state.md R12, R26, R29; 20_memory.md R36). The field that takes what the host saw is the
model's (assumption 2). -/
def Obligations.RegisterReadsReturnTheirContents : Prop :=
  ∀ (s : State) (rest : List HostAccess), s.cfg.Legal →
    ∀ entry ∈ ([(0x00#8, s.cw.map BitVec.toNat), (0x01#8, s.inLen.map BitVec.toNat), (0x02#8, some s.status.toNat),
        (0x03#8, s.outLen.map BitVec.toNat), (0x04#8, s.reportId.map BitVec.toNat), (0x05#8, s.declLen.map BitVec.toNat),
        (0x06#8, s.hdrB0.map BitVec.toNat), (0x07#8, s.hdrB1.map BitVec.toNat), (0x08#8, s.hdrB2.map BitVec.toNat),
        (0x09#8, s.hdrB3.map BitVec.toNat), (0x0A#8, s.value)] : List (Byte × Option Nat)),
      s.host = .readReg entry.1 :: rest →
      (∀ x, entry.2 = some x → step s = .next { s with host := rest, hostSeen := x :: s.hostSeen }) ∧
      (entry.2 = none → step s = .fault .readUnwritten)

/-- A host read of a buffer byte within its capacity returns the byte and changes nothing of FCODEC; where it is `⊥` it is
the model fault (10_state.md R12, R26, R29). The list of values read is the model's (assumption 2). -/
def Obligations.BufferReadsReturnTheirBytes : Prop :=
  ∀ (s : State) (rest : List HostAccess) (i : Nat), s.cfg.Legal →
    (s.host = .readIn i :: rest → i < s.cfg.inCap →
      (∀ b, s.inBuf.read i = some b → step s = .next { s with host := rest, hostSeen := b.toNat :: s.hostSeen }) ∧
      (s.inBuf.read i = none → step s = .fault .readUnwritten)) ∧
    (s.host = .readOut i :: rest → i < s.cfg.maxPayload + 6 →
      (∀ b, s.outBuf.read i = some b → step s = .next { s with host := rest, hostSeen := b.toNat :: s.hostSeen }) ∧
      (s.outBuf.read i = none → step s = .fault .readUnwritten))

/-- Reads have no side effect and are idempotent (10_state.md R29; 20_memory.md R39): a completed read changes nothing of
FCODEC, and the same read made again returns the same value. The list of values read is the model's (assumption 2). -/
def Obligations.ReadsAreIdempotent : Prop :=
  ∀ (s t : State) (a : HostAccess) (rest : List HostAccess), a.isRead = true → s.host = a :: a :: rest →
    step s = .next t → ∃ x, t = { s with host := a :: rest, hostSeen := x :: s.hostSeen } ∧
      step t = .next { s with host := rest, hostSeen := x :: x :: s.hostSeen }

/-- Writes of IN_LEN and of an IN_BUF byte store the value and do nothing else (10_state.md R14, R15; 20_memory.md R39):
STATUS, CW and the results stay, so results live until the next issue (70_reset_and_hazards.md R109). -/
def Obligations.OperandWritesOnlyStore : Prop :=
  ∀ (s : State) (rest : List HostAccess) (i v : Nat), s.cfg.Legal →
    (s.host = .writeReg 0x01#8 v :: rest → v < 2 ^ 16 →
      step s = .next { s with host := rest, inLen := some (BitVec.ofNat 16 v) }) ∧
    (s.host = .writeIn i v :: rest → i < s.cfg.inCap → v < 2 ^ 8 →
      ∃ m, step s = .next { s with host := rest, inBuf := m } ∧ m.read i = some (BitVec.ofNat 8 v) ∧
        ∀ j, j ≠ i → m.read j = s.inBuf.read j)

/-- The order of the host's operand writes does not matter (70_reset_and_hazards.md R108): two writes of different bytes of
IN_BUF, or one of a byte and one of IN_LEN, leave the same state in either order. -/
def Obligations.OperandWriteOrderDoesNotMatter : Prop :=
  ∀ (s : State) (rest : List HostAccess) (i j v w n : Nat), s.cfg.Legal → s.inBuf.Canonical →
    i < s.cfg.inCap → j < s.cfg.inCap → i ≠ j → v < 2 ^ 8 → w < 2 ^ 8 → n < 2 ^ 16 →
    (∃ t, run 2 { s with host := .writeIn i v :: .writeIn j w :: rest } = .next t ∧
      run 2 { s with host := .writeIn j w :: .writeIn i v :: rest } = .next t) ∧
    (∃ t, run 2 { s with host := .writeIn i v :: .writeReg 0x01#8 n :: rest } = .next t ∧
      run 2 { s with host := .writeReg 0x01#8 n :: .writeIn i v :: rest } = .next t)

/-- A host access is refused exactly where it has no meaning (10_state.md R28): a write of a read-only register or buffer,
an unused register number, a value too wide, an index outside its buffer. -/
def Obligations.ExactlyMeaninglessAccessesAreRefused : Prop :=
  ∀ (s : State) (a : HostAccess) (rest : List HostAccess), s.cfg.Legal → s.host = a :: rest →
    ((∃ r, step s = .refused r) ↔ MeaninglessAccess s.cfg a)

/-- STATUS and the result registers are written by issues and by reset and by nothing else (10_state.md R16; 60_exceptions.md
R90, R96): after any other access they are as before, and so is CW. -/
def Obligations.OnlyIssuesAndResetWriteResults : Prop :=
  ∀ (s t : State) (a : HostAccess) (rest : List HostAccess), s.host = a :: rest → step s = .next t →
    (∀ v, a ≠ .writeReg 0x00#8 v) → a ≠ .reset →
    t.cw = s.cw ∧ t.status = s.status ∧ t.outLen = s.outLen ∧ t.reportId = s.reportId ∧ t.declLen = s.declLen ∧
    t.hdrB0 = s.hdrB0 ∧ t.hdrB1 = s.hdrB1 ∧ t.hdrB2 = s.hdrB2 ∧ t.hdrB3 = s.hdrB3 ∧ t.value = s.value ∧
    (∀ i, t.outBuf.read i = s.outBuf.read i)

/-! ## Assembled lines -/

/-- A line of an operation with its operand bytes, assembled and run by the host, is that operation on exactly those bytes
(30_encoding.md R57): after the writes of the bytes and of IN_LEN, the issue runs the instruction its word decodes to.
The host's list and the decoder's names are the model's (assumptions 2 and 4). -/
def Obligations.AssembledLineRunsItsOperation : Prop :=
  ∀ (i : Instr) (bytes : List Byte) (s : State) (rest : List HostAccess),
    s.cfg.Legal → bytes.length ≤ s.cfg.inCap → s.host = issueSequence i bytes ++ rest →
    ∃ u : State, u = { s with host := rest, inLen := some (BitVec.ofNat 16 bytes.length), inBuf := u.inBuf } ∧
      u.InputIs bytes ∧ (∀ k, bytes.length ≤ k → u.inBuf.read k = s.inBuf.read k) ∧
      run (bytes.length + 2) s = exec i.canonical u

/-- The four device commands: each pseudo-operation assembles to its expansion, and its accesses, from any state, leave the
frame of 40_frame_build.md R71 to R74 (a one-byte payload needs MAX_PAYLOAD to admit it). -/
def Obligations.PseudoLinesLeaveTheirFrames : Prop :=
  AsmLine.assemble .scan = AsmLine.assemble (.buildW 0x02 0x18 [0x00]) ∧
  AsmLine.assemble .getcfg = AsmLine.assemble (.buildR 0x02 0x23 []) ∧
  (∀ fileId, AsmLine.assemble (.fsize fileId) = AsmLine.assemble (.buildR 0x00 0x2D [fileId])) ∧
  AsmLine.assemble .fchunk = AsmLine.assemble (.buildR 0x00 0x2E []) ∧
  ∀ (s : State) (rest : List HostAccess) (fileId : Byte), s.cfg.Legal →
    (s.host = AsmLine.assemble .scan ++ rest → 1 ≤ s.cfg.maxPayload →
      ∃ t, run 3 s = .next t ∧ t.host = rest ∧ t.cw = some 0x00180200#32 ∧ t.inLen = some 1#16 ∧
        t.inBuf.read 0 = some 0x00#8 ∧ t.FrameIs 0x40#8 0x02#8 0x18#8 [0x00#8]) ∧
    (s.host = AsmLine.assemble .getcfg ++ rest →
      ∃ t, run 2 s = .next t ∧ t.host = rest ∧ t.cw = some 0x00230201#32 ∧ t.inLen = some 0#16 ∧
        t.FrameIs 0xC0#8 0x02#8 0x23#8 []) ∧
    (s.host = AsmLine.assemble (.fsize fileId) ++ rest → 1 ≤ s.cfg.maxPayload →
      ∃ t, run 3 s = .next t ∧ t.host = rest ∧ t.cw = some 0x002D0001#32 ∧ t.inLen = some 1#16 ∧
        t.inBuf.read 0 = some fileId ∧ t.FrameIs 0xC0#8 0x00#8 0x2D#8 [fileId]) ∧
    (s.host = AsmLine.assemble .fchunk ++ rest →
      ∃ t, run 2 s = .next t ∧ t.host = rest ∧ t.cw = some 0x002E0001#32 ∧ t.inLen = some 0#16 ∧
        t.FrameIs 0xC0#8 0x00#8 0x2E#8 [])
end

