-- ==== Sys2Proof/Laws/Encoding.lean ====
section
/-! SUPPORT. The number a command word is, and the fields of a word as parts of that number (30_encoding.md R46,
R47). -/

namespace Sys2Proof

/-- Appending bit vectors is adding their numbers in place. -/
theorem toNat_append_eq {n m : Nat} (x : BitVec n) (y : BitVec m) : (x ++ y).toNat = x.toNat * 2 ^ m + y.toNat := by
  rw [BitVec.toNat_append, ← Nat.shiftLeft_add_eq_or_of_lt y.isLt, Nat.shiftLeft_eq]

/-- The number of a command word: OP from bit 0, GROUP from bit 8, CMD from bit 16, all else 0 (R46). -/
theorem toNat_commandWord (op : BitVec 3) (g c : Byte) :
    (commandWord op g c).toNat = c.toNat * 65536 + g.toNat * 256 + op.toNat := by
  have h : (commandWord op g c).toNat = (0#8 ++ c ++ g ++ 0#5 ++ op).toNat := rfl
  rw [h]
  simp only [toNat_append_eq, BitVec.toNat_ofNat]
  omega

theorem Word.toNat_op (w : Word) : (Word.op w).toNat = w.toNat % 8 := by
  simp [Word.op, BitVec.extractLsb'_toNat]

theorem Word.toNat_rsvLo (w : Word) : (Word.rsvLo w).toNat = w.toNat / 8 % 32 := by
  simp [Word.rsvLo, BitVec.extractLsb'_toNat, Nat.shiftRight_eq_div_pow]

theorem Word.toNat_group (w : Word) : (Word.group w).toNat = w.toNat / 256 % 256 := by
  simp [Word.group, BitVec.extractLsb'_toNat, Nat.shiftRight_eq_div_pow]

theorem Word.toNat_command (w : Word) : (Word.command w).toNat = w.toNat / 65536 % 256 := by
  simp [Word.command, BitVec.extractLsb'_toNat, Nat.shiftRight_eq_div_pow]

theorem Word.toNat_rsvHi (w : Word) : (Word.rsvHi w).toNat = w.toNat / 16777216 := by
  have := w.isLt
  simp [Word.rsvHi, BitVec.extractLsb'_toNat, Nat.shiftRight_eq_div_pow]
  omega

theorem Word.toNat_aboveOp (w : Word) : (Word.aboveOp w).toNat = w.toNat / 8 := by
  have := w.isLt
  simp [Word.aboveOp, BitVec.extractLsb'_toNat, Nat.shiftRight_eq_div_pow]
  omega

/-- Bits 7:3 are clear exactly where their number is 0. -/
theorem Word.rsvLo_eq_zero_iff (w : Word) : Word.rsvLo w = 0 ↔ w.toNat / 8 % 32 = 0 := by
  rw [← BitVec.toNat_inj, Word.toNat_rsvLo]
  rfl

/-- Bits 31:24 are clear exactly where their number is 0. -/
theorem Word.rsvHi_eq_zero_iff (w : Word) : Word.rsvHi w = 0 ↔ w.toNat / 16777216 = 0 := by
  rw [← BitVec.toNat_inj, Word.toNat_rsvHi]
  rfl

/-- Bits 31:3 are clear exactly where their number is 0. -/
theorem Word.aboveOp_eq_zero_iff (w : Word) : Word.aboveOp w = 0 ↔ w.toNat / 8 = 0 := by
  rw [← BitVec.toNat_inj, Word.toNat_aboveOp]
  rfl

/-- A word with clear reserved bits is the command word of its fields. -/
theorem commandWord_of_fields {w : Word} (hlo : Word.rsvLo w = 0) (hhi : Word.rsvHi w = 0) :
    commandWord (Word.op w) (Word.group w) (Word.command w) = w := by
  rw [Word.rsvLo_eq_zero_iff] at hlo
  rw [Word.rsvHi_eq_zero_iff] at hhi
  apply BitVec.eq_of_toNat_eq
  rw [toNat_commandWord, Word.toNat_op, Word.toNat_group, Word.toNat_command]
  omega

/-- A word with bits 31:3 clear is the command word of its OP. -/
theorem commandWord_of_op {w : Word} (h : Word.aboveOp w = 0) : commandWord (Word.op w) 0 0 = w := by
  rw [Word.aboveOp_eq_zero_iff] at h
  apply BitVec.eq_of_toNat_eq
  rw [toNat_commandWord, Word.toNat_op]
  simp
  omega

@[simp] theorem op_commandWord (op : BitVec 3) (g c : Byte) : Word.op (commandWord op g c) = op := by
  apply BitVec.eq_of_toNat_eq
  rw [Word.toNat_op, toNat_commandWord]
  have := op.isLt
  omega

@[simp] theorem rsvLo_commandWord (op : BitVec 3) (g c : Byte) : Word.rsvLo (commandWord op g c) = 0 := by
  rw [Word.rsvLo_eq_zero_iff, toNat_commandWord]
  have := op.isLt
  omega

@[simp] theorem group_commandWord (op : BitVec 3) (g c : Byte) : Word.group (commandWord op g c) = g := by
  apply BitVec.eq_of_toNat_eq
  rw [Word.toNat_group, toNat_commandWord]
  have := op.isLt
  have := g.isLt
  omega

@[simp] theorem command_commandWord (op : BitVec 3) (g c : Byte) : Word.command (commandWord op g c) = c := by
  apply BitVec.eq_of_toNat_eq
  rw [Word.toNat_command, toNat_commandWord]
  have := op.isLt
  have := g.isLt
  have := c.isLt
  omega

@[simp] theorem rsvHi_commandWord (op : BitVec 3) (g c : Byte) : Word.rsvHi (commandWord op g c) = 0 := by
  rw [Word.rsvHi_eq_zero_iff, toNat_commandWord]
  have := op.isLt
  have := g.isLt
  have := c.isLt
  omega

/-- Everything the decoder accepts: one case for each operation, with the reserved bits it requires clear. -/
theorem decode_ok_cases {w : Word} {i : Instr} (h : decode w = .ok i) :
    (Word.op w = 0 ∧ Word.rsvLo w = 0 ∧ Word.rsvHi w = 0 ∧ i = Instr.ofBuildW (Word.group w) (Word.command w)) ∨
    (Word.op w = 1 ∧ Word.rsvLo w = 0 ∧ Word.rsvHi w = 0 ∧ i = Instr.ofBuildR (Word.group w) (Word.command w)) ∨
    (Word.op w = 2 ∧ Word.aboveOp w = 0 ∧ i = .parse) ∨ (Word.op w = 3 ∧ Word.aboveOp w = 0 ∧ i = .combbe) ∨
    (Word.op w = 4 ∧ Word.aboveOp w = 0 ∧ i = .decle) := by
  have op_eq : ∀ n : Nat, (Word.op w).toNat = n → Word.op w = BitVec.ofNat 3 n := by
    rintro n rfl
    simp
  unfold decode at h
  split at h
  · next hop => split at h <;> cases h; next hr => exact .inl ⟨op_eq 0 hop, hr.1, hr.2, rfl⟩
  · next hop => split at h <;> cases h; next hr => exact .inr (.inl ⟨op_eq 1 hop, hr.1, hr.2, rfl⟩)
  · next hop => split at h <;> cases h; next hr => exact .inr (.inr (.inl ⟨op_eq 2 hop, hr, rfl⟩))
  · next hop => split at h <;> cases h; next hr => exact .inr (.inr (.inr (.inl ⟨op_eq 3 hop, hr, rfl⟩)))
  · next hop => split at h <;> cases h; next hr => exact .inr (.inr (.inr (.inr ⟨op_eq 4 hop, hr, rfl⟩)))
  · cases h

end Sys2Proof
end

