-- ==== Sys2Proof/Laws/Memory.lean ====
section
/-! SUPPORT. The laws of the byte buffers: read after write, the canonical form, reading and writing a run of bytes. -/

namespace Sys2Proof.Machine

/-- The empty buffer holds `⊥` everywhere. -/
@[simp] theorem Memory.read_nil (i : Nat) : Memory.read [] i = none := rfl

/-- A write is read back at its index. -/
@[simp] theorem Memory.read_write_same (m : Memory) (i : Nat) (v : Byte) : (m.write i v).read i = some v := by
  induction m with
  | nil => simp [Memory.write, Memory.read]
  | cons cell rest ih =>
    obtain ⟨a, b⟩ := cell
    unfold Memory.write
    split
    · simp [Memory.read]
    · split
      · simp [Memory.read]
      · next _ hne => simp [Memory.read, hne, ih]

/-- A write leaves every other index alone. -/
theorem Memory.read_write_of_ne (m : Memory) {i j : Nat} (v : Byte) (h : j ≠ i) : (m.write i v).read j = m.read j := by
  induction m with
  | nil => simp [Memory.write, Memory.read, h]
  | cons cell rest ih =>
    obtain ⟨a, b⟩ := cell
    unfold Memory.write
    split
    · simp [Memory.read, h]
    · split
      · next _ heq => subst heq; simp [Memory.read, h]
      · simp [Memory.read, ih]

/-- The indices of a buffer after a write: the one written, and those before. -/
theorem Memory.mem_write {m : Memory} {i : Nat} {v : Byte} {cell : Host.Cell} (h : cell ∈ m.write i v) :
    cell = (i, v) ∨ cell ∈ m := by
  induction m with
  | nil => simpa [Memory.write] using h
  | cons c rest ih =>
    obtain ⟨a, b⟩ := c
    unfold Memory.write at h
    split at h
    · simpa using h
    · split at h
      · simp only [List.mem_cons] at h ⊢; tauto
      · simp only [List.mem_cons] at h ⊢
        rcases h with h | h
        · exact .inr (.inl h)
        · exact (ih h).imp id .inr

/-- A write keeps the canonical form. -/
theorem Memory.canonical_write {m : Memory} (h : m.Canonical) (i : Nat) (v : Byte) : (m.write i v).Canonical := by
  induction m with
  | nil => simp [Memory.write, Memory.Canonical]
  | cons c rest ih =>
    obtain ⟨a, b⟩ := c
    obtain ⟨hd, tl⟩ := List.pairwise_cons.mp h
    unfold Memory.write
    split
    · next hlt =>
      refine List.pairwise_cons.mpr ⟨fun x hx => ?_, h⟩
      rcases List.mem_cons.mp hx with rfl | hx
      · exact hlt
      · exact hlt.trans (hd x hx)
    · split
      · next _ heq => subst heq; exact List.pairwise_cons.mpr ⟨hd, tl⟩
      · next hlt hne =>
        refine List.pairwise_cons.mpr ⟨fun x hx => ?_, ih tl⟩
        rcases Memory.mem_write hx with rfl | hx
        · simp only; omega
        · exact hd x hx

/-- A write within the capacity keeps every index below it. -/
theorem Memory.below_write {m : Memory} {cap i : Nat} (h : m.Below cap) (hi : i < cap) (v : Byte) :
    (m.write i v).Below cap := by
  intro cell hc
  rcases Memory.mem_write hc with rfl | hc
  · exact hi
  · exact h cell hc

/-- Writing a run of bytes keeps the canonical form. -/
theorem Memory.canonical_writeFrom {m : Memory} (h : m.Canonical) (i : Nat) (bs : List Byte) :
    (m.writeFrom i bs).Canonical := by
  induction bs generalizing m i with
  | nil => exact h
  | cons b bs ih => exact ih (Memory.canonical_write h i b) (i + 1)

/-- Writing a run of bytes within the capacity keeps every index below it. -/
theorem Memory.below_writeFrom {m : Memory} {cap i : Nat} {bs : List Byte} (h : m.Below cap)
    (hi : i + bs.length ≤ cap) : (m.writeFrom i bs).Below cap := by
  induction bs generalizing m i with
  | nil => exact h
  | cons b bs ih =>
    simp only [List.length_cons] at hi
    exact ih (Memory.below_write h (by omega) b) (by omega)

/-- What a buffer holds after a run of bytes was written: the run, and elsewhere what it held. -/
theorem Memory.read_writeFrom (m : Memory) (i : Nat) (bs : List Byte) (j : Nat) :
    (m.writeFrom i bs).read j = if i ≤ j ∧ j < i + bs.length then bs[j - i]? else m.read j := by
  induction bs generalizing m i with
  | nil => simp [Memory.writeFrom]
  | cons b bs ih =>
    rw [Memory.writeFrom, ih]
    simp only [List.length_cons]
    by_cases h : i = j
    · subst h
      simp
    · rw [Memory.read_write_of_ne _ _ (Ne.symm h)]
      by_cases hc : i + 1 ≤ j ∧ j < i + 1 + bs.length
      · rw [if_pos hc, if_pos (by omega)]
        obtain ⟨k, rfl⟩ : ∃ k, j = i + (k + 1) := ⟨j - i - 1, by omega⟩
        rw [show i + (k + 1) - (i + 1) = k by omega, show i + (k + 1) - i = k + 1 by omega,
          List.getElem?_cons_succ]
      · rw [if_neg hc, if_neg (by omega)]

/-- A run of bytes reads as its bytes, one by one. -/
theorem Memory.readFrom_eq_some_iff (m : Memory) (i n : Nat) (bs : List Byte) :
    m.readFrom i n = some bs ↔ bs.length = n ∧ ∀ (k : Nat) (h : k < bs.length), m.read (i + k) = some bs[k] := by
  induction n generalizing i bs with
  | zero =>
    simp only [Memory.readFrom, Option.some.injEq]
    constructor
    · rintro rfl; simp
    · rintro ⟨h, _⟩; exact (List.length_eq_zero_iff.mp h).symm
  | succ n ih =>
    rw [Memory.readFrom]
    constructor
    · intro h
      split at h
      · next b cs hb hcs =>
        obtain rfl := Option.some.inj h
        obtain ⟨hl, hr⟩ := (ih (i + 1) cs).mp hcs
        refine ⟨by simp [hl], fun k hk => ?_⟩
        cases k with
        | zero => simpa using hb
        | succ k =>
          have := hr k (by simpa using hk)
          rw [List.getElem_cons_succ, ← this]
          congr 1
          omega
      · cases h
    · rintro ⟨hl, hr⟩
      match bs, hl with
      | b :: cs, hl =>
        have hb : m.read i = some b := by
          have := hr 0 (by simp)
          rwa [Nat.add_zero, List.getElem_cons_zero] at this
        have hcs : m.readFrom (i + 1) n = some cs := by
          refine (ih (i + 1) cs).mpr ⟨by simpa using hl, fun k hk => ?_⟩
          have := hr (k + 1) (by simpa using hk)
          rw [List.getElem_cons_succ] at this
          rw [← this]
          congr 1
          omega
        simp [hb, hcs]

/-- A run of bytes has no value exactly where one of its bytes is `⊥`. -/
theorem Memory.readFrom_eq_none_iff (m : Memory) (i n : Nat) :
    m.readFrom i n = none ↔ ∃ k, k < n ∧ m.read (i + k) = none := by
  induction n generalizing i with
  | zero => simp [Memory.readFrom]
  | succ n ih =>
    rw [Memory.readFrom]
    split
    · next b bs hb hbs =>
      simp only [reduceCtorEq, false_iff]
      rintro ⟨k, hk, hn⟩
      cases k with
      | zero => simp [hb] at hn
      | succ k =>
        have : m.readFrom (i + 1) n = none := (ih (i + 1)).mpr ⟨k, by omega, by rw [← hn]; congr 1; omega⟩
        simp [hbs] at this
    · next h =>
      simp only [true_iff]
      cases hb : m.read i with
      | none => exact ⟨0, by omega, by simpa using hb⟩
      | some b =>
        cases hbs : m.readFrom (i + 1) n with
        | none =>
          obtain ⟨k, hk, hn⟩ := (ih (i + 1)).mp hbs
          exact ⟨k + 1, by omega, by rw [← hn]; congr 1; omega⟩
        | some bs => exact absurd hbs (h b bs hb)

/-- Two buffers in canonical form that read the same everywhere are the same. -/
theorem Memory.ext_of_canonical {m m' : Memory} (h : m.Canonical) (h' : m'.Canonical)
    (hr : ∀ i, m.read i = m'.read i) : m = m' := by
  induction m generalizing m' with
  | nil =>
    cases m' with
    | nil => rfl
    | cons c rest => have := hr c.1; simp [Memory.read] at this
  | cons c rest ih =>
    obtain ⟨a, b⟩ := c
    cases m' with
    | nil => have := hr a; simp [Memory.read] at this
    | cons c' rest' =>
      obtain ⟨a', b'⟩ := c'
      obtain ⟨hd, tl⟩ := List.pairwise_cons.mp h
      obtain ⟨hd', tl'⟩ := List.pairwise_cons.mp h'
      have below : ∀ (l : Memory) (x : Nat), (∀ cell ∈ l, x < cell.1) → ∀ y ≤ x, Memory.read l y = none := by
        intro l x hl y hy
        induction l with
        | nil => rfl
        | cons d l ihl =>
          have := hl d (by simp)
          rw [Memory.read, if_neg (by omega), ihl (fun cell hc => hl cell (by simp [hc]))]
      have hlt : ¬ a < a' := by
        intro hlt
        have := hr a
        rw [Memory.read, if_pos rfl, Memory.read, if_neg (by omega), below rest' a' hd' a (by omega)] at this
        cases this
      have hgt : ¬ a' < a := by
        intro hgt
        have := hr a'
        rw [Memory.read, if_neg (by omega), below rest a hd a' (by omega), Memory.read, if_pos rfl] at this
        cases this
      obtain rfl : a = a' := by omega
      have hb := hr a
      simp only [Memory.read, if_true] at hb
      obtain rfl := Option.some.inj hb
      congr 1
      refine ih tl tl' fun i => ?_
      by_cases hi : i = a
      · subst hi
        rw [below rest i hd i le_rfl, below rest' i hd' i le_rfl]
      · have := hr i
        simpa [Memory.read, hi] using this

end Sys2Proof.Machine
end

