-- ==== Sys2Proof/Laws/State.lean ====
section
/-! SUPPORT. One lemma for each field of State under each named update: later proofs unfold no record update. -/

namespace Sys2Proof.Machine

variable (s : State)

/-! `State.storeInLen` -/

@[simp] theorem State.storeInLen_cfg (v : Half) : (s.storeInLen v).cfg = s.cfg := rfl
@[simp] theorem State.storeInLen_cw (v : Half) : (s.storeInLen v).cw = s.cw := rfl
@[simp] theorem State.storeInLen_inLen (v : Half) : (s.storeInLen v).inLen = some v := rfl
@[simp] theorem State.storeInLen_inBuf (v : Half) : (s.storeInLen v).inBuf = s.inBuf := rfl
@[simp] theorem State.storeInLen_status (v : Half) : (s.storeInLen v).status = s.status := rfl
@[simp] theorem State.storeInLen_outLen (v : Half) : (s.storeInLen v).outLen = s.outLen := rfl
@[simp] theorem State.storeInLen_reportId (v : Half) : (s.storeInLen v).reportId = s.reportId := rfl
@[simp] theorem State.storeInLen_declLen (v : Half) : (s.storeInLen v).declLen = s.declLen := rfl
@[simp] theorem State.storeInLen_hdrB0 (v : Half) : (s.storeInLen v).hdrB0 = s.hdrB0 := rfl
@[simp] theorem State.storeInLen_hdrB1 (v : Half) : (s.storeInLen v).hdrB1 = s.hdrB1 := rfl
@[simp] theorem State.storeInLen_hdrB2 (v : Half) : (s.storeInLen v).hdrB2 = s.hdrB2 := rfl
@[simp] theorem State.storeInLen_hdrB3 (v : Half) : (s.storeInLen v).hdrB3 = s.hdrB3 := rfl
@[simp] theorem State.storeInLen_value (v : Half) : (s.storeInLen v).value = s.value := rfl
@[simp] theorem State.storeInLen_outBuf (v : Half) : (s.storeInLen v).outBuf = s.outBuf := rfl
@[simp] theorem State.storeInLen_host (v : Half) : (s.storeInLen v).host = s.host := rfl
@[simp] theorem State.storeInLen_hostSeen (v : Half) : (s.storeInLen v).hostSeen = s.hostSeen := rfl

/-! `State.storeInByte` -/

@[simp] theorem State.storeInByte_cfg (i : Nat) (v : Byte) : (s.storeInByte i v).cfg = s.cfg := rfl
@[simp] theorem State.storeInByte_cw (i : Nat) (v : Byte) : (s.storeInByte i v).cw = s.cw := rfl
@[simp] theorem State.storeInByte_inLen (i : Nat) (v : Byte) : (s.storeInByte i v).inLen = s.inLen := rfl
@[simp] theorem State.storeInByte_inBuf (i : Nat) (v : Byte) : (s.storeInByte i v).inBuf = s.inBuf.write i v := rfl
@[simp] theorem State.storeInByte_status (i : Nat) (v : Byte) : (s.storeInByte i v).status = s.status := rfl
@[simp] theorem State.storeInByte_outLen (i : Nat) (v : Byte) : (s.storeInByte i v).outLen = s.outLen := rfl
@[simp] theorem State.storeInByte_reportId (i : Nat) (v : Byte) : (s.storeInByte i v).reportId = s.reportId := rfl
@[simp] theorem State.storeInByte_declLen (i : Nat) (v : Byte) : (s.storeInByte i v).declLen = s.declLen := rfl
@[simp] theorem State.storeInByte_hdrB0 (i : Nat) (v : Byte) : (s.storeInByte i v).hdrB0 = s.hdrB0 := rfl
@[simp] theorem State.storeInByte_hdrB1 (i : Nat) (v : Byte) : (s.storeInByte i v).hdrB1 = s.hdrB1 := rfl
@[simp] theorem State.storeInByte_hdrB2 (i : Nat) (v : Byte) : (s.storeInByte i v).hdrB2 = s.hdrB2 := rfl
@[simp] theorem State.storeInByte_hdrB3 (i : Nat) (v : Byte) : (s.storeInByte i v).hdrB3 = s.hdrB3 := rfl
@[simp] theorem State.storeInByte_value (i : Nat) (v : Byte) : (s.storeInByte i v).value = s.value := rfl
@[simp] theorem State.storeInByte_outBuf (i : Nat) (v : Byte) : (s.storeInByte i v).outBuf = s.outBuf := rfl
@[simp] theorem State.storeInByte_host (i : Nat) (v : Byte) : (s.storeInByte i v).host = s.host := rfl
@[simp] theorem State.storeInByte_hostSeen (i : Nat) (v : Byte) : (s.storeInByte i v).hostSeen = s.hostSeen := rfl

/-! `State.takeAccess` -/

@[simp] theorem State.takeAccess_cfg (rest : List HostAccess) : (s.takeAccess rest).cfg = s.cfg := rfl
@[simp] theorem State.takeAccess_cw (rest : List HostAccess) : (s.takeAccess rest).cw = s.cw := rfl
@[simp] theorem State.takeAccess_inLen (rest : List HostAccess) : (s.takeAccess rest).inLen = s.inLen := rfl
@[simp] theorem State.takeAccess_inBuf (rest : List HostAccess) : (s.takeAccess rest).inBuf = s.inBuf := rfl
@[simp] theorem State.takeAccess_status (rest : List HostAccess) : (s.takeAccess rest).status = s.status := rfl
@[simp] theorem State.takeAccess_outLen (rest : List HostAccess) : (s.takeAccess rest).outLen = s.outLen := rfl
@[simp] theorem State.takeAccess_reportId (rest : List HostAccess) : (s.takeAccess rest).reportId = s.reportId := rfl
@[simp] theorem State.takeAccess_declLen (rest : List HostAccess) : (s.takeAccess rest).declLen = s.declLen := rfl
@[simp] theorem State.takeAccess_hdrB0 (rest : List HostAccess) : (s.takeAccess rest).hdrB0 = s.hdrB0 := rfl
@[simp] theorem State.takeAccess_hdrB1 (rest : List HostAccess) : (s.takeAccess rest).hdrB1 = s.hdrB1 := rfl
@[simp] theorem State.takeAccess_hdrB2 (rest : List HostAccess) : (s.takeAccess rest).hdrB2 = s.hdrB2 := rfl
@[simp] theorem State.takeAccess_hdrB3 (rest : List HostAccess) : (s.takeAccess rest).hdrB3 = s.hdrB3 := rfl
@[simp] theorem State.takeAccess_value (rest : List HostAccess) : (s.takeAccess rest).value = s.value := rfl
@[simp] theorem State.takeAccess_outBuf (rest : List HostAccess) : (s.takeAccess rest).outBuf = s.outBuf := rfl
@[simp] theorem State.takeAccess_host (rest : List HostAccess) : (s.takeAccess rest).host = rest := rfl
@[simp] theorem State.takeAccess_hostSeen (rest : List HostAccess) : (s.takeAccess rest).hostSeen = s.hostSeen := rfl

/-! `State.invalidate` -/

@[simp] theorem State.invalidate_cfg : s.invalidate.cfg = s.cfg := rfl
@[simp] theorem State.invalidate_cw : s.invalidate.cw = s.cw := rfl
@[simp] theorem State.invalidate_inLen : s.invalidate.inLen = s.inLen := rfl
@[simp] theorem State.invalidate_inBuf : s.invalidate.inBuf = s.inBuf := rfl
@[simp] theorem State.invalidate_status : s.invalidate.status = s.status := rfl
@[simp] theorem State.invalidate_outLen : s.invalidate.outLen = none := rfl
@[simp] theorem State.invalidate_reportId : s.invalidate.reportId = none := rfl
@[simp] theorem State.invalidate_declLen : s.invalidate.declLen = none := rfl
@[simp] theorem State.invalidate_hdrB0 : s.invalidate.hdrB0 = none := rfl
@[simp] theorem State.invalidate_hdrB1 : s.invalidate.hdrB1 = none := rfl
@[simp] theorem State.invalidate_hdrB2 : s.invalidate.hdrB2 = none := rfl
@[simp] theorem State.invalidate_hdrB3 : s.invalidate.hdrB3 = none := rfl
@[simp] theorem State.invalidate_value : s.invalidate.value = none := rfl
@[simp] theorem State.invalidate_outBuf : s.invalidate.outBuf = [] := rfl
@[simp] theorem State.invalidate_host : s.invalidate.host = s.host := rfl
@[simp] theorem State.invalidate_hostSeen : s.invalidate.hostSeen = s.hostSeen := rfl

/-! `State.beginIssue` -/

@[simp] theorem State.beginIssue_cfg (w : Word) : (s.beginIssue w).cfg = s.cfg := rfl
@[simp] theorem State.beginIssue_cw (w : Word) : (s.beginIssue w).cw = some w := rfl
@[simp] theorem State.beginIssue_inLen (w : Word) : (s.beginIssue w).inLen = s.inLen := rfl
@[simp] theorem State.beginIssue_inBuf (w : Word) : (s.beginIssue w).inBuf = s.inBuf := rfl
@[simp] theorem State.beginIssue_status (w : Word) : (s.beginIssue w).status = s.status := rfl
@[simp] theorem State.beginIssue_outLen (w : Word) : (s.beginIssue w).outLen = none := rfl
@[simp] theorem State.beginIssue_reportId (w : Word) : (s.beginIssue w).reportId = none := rfl
@[simp] theorem State.beginIssue_declLen (w : Word) : (s.beginIssue w).declLen = none := rfl
@[simp] theorem State.beginIssue_hdrB0 (w : Word) : (s.beginIssue w).hdrB0 = none := rfl
@[simp] theorem State.beginIssue_hdrB1 (w : Word) : (s.beginIssue w).hdrB1 = none := rfl
@[simp] theorem State.beginIssue_hdrB2 (w : Word) : (s.beginIssue w).hdrB2 = none := rfl
@[simp] theorem State.beginIssue_hdrB3 (w : Word) : (s.beginIssue w).hdrB3 = none := rfl
@[simp] theorem State.beginIssue_value (w : Word) : (s.beginIssue w).value = none := rfl
@[simp] theorem State.beginIssue_outBuf (w : Word) : (s.beginIssue w).outBuf = [] := rfl
@[simp] theorem State.beginIssue_host (w : Word) : (s.beginIssue w).host = s.host := rfl
@[simp] theorem State.beginIssue_hostSeen (w : Word) : (s.beginIssue w).hostSeen = s.hostSeen := rfl

/-! `State.putFrame` -/

@[simp] theorem State.putFrame_cfg (f : List Byte) : (s.putFrame f).cfg = s.cfg := rfl
@[simp] theorem State.putFrame_cw (f : List Byte) : (s.putFrame f).cw = s.cw := rfl
@[simp] theorem State.putFrame_inLen (f : List Byte) : (s.putFrame f).inLen = s.inLen := rfl
@[simp] theorem State.putFrame_inBuf (f : List Byte) : (s.putFrame f).inBuf = s.inBuf := rfl
@[simp] theorem State.putFrame_status (f : List Byte) : (s.putFrame f).status = statusDone .frame := rfl
@[simp] theorem State.putFrame_outLen (f : List Byte) : (s.putFrame f).outLen = some (BitVec.ofNat 32 f.length) := rfl
@[simp] theorem State.putFrame_reportId (f : List Byte) : (s.putFrame f).reportId = some 0x00#8 := rfl
@[simp] theorem State.putFrame_declLen (f : List Byte) : (s.putFrame f).declLen = s.declLen := rfl
@[simp] theorem State.putFrame_hdrB0 (f : List Byte) : (s.putFrame f).hdrB0 = s.hdrB0 := rfl
@[simp] theorem State.putFrame_hdrB1 (f : List Byte) : (s.putFrame f).hdrB1 = s.hdrB1 := rfl
@[simp] theorem State.putFrame_hdrB2 (f : List Byte) : (s.putFrame f).hdrB2 = s.hdrB2 := rfl
@[simp] theorem State.putFrame_hdrB3 (f : List Byte) : (s.putFrame f).hdrB3 = s.hdrB3 := rfl
@[simp] theorem State.putFrame_value (f : List Byte) : (s.putFrame f).value = s.value := rfl
@[simp] theorem State.putFrame_outBuf (f : List Byte) : (s.putFrame f).outBuf = s.outBuf.writeFrom 0 f := rfl
@[simp] theorem State.putFrame_host (f : List Byte) : (s.putFrame f).host = s.host := rfl
@[simp] theorem State.putFrame_hostSeen (f : List Byte) : (s.putFrame f).hostSeen = s.hostSeen := rfl

/-! `State.putHeader` -/

@[simp] theorem State.putHeader_cfg (b0 b1 b2 b3 : Byte) (d : Half) :
    (s.putHeader b0 b1 b2 b3 d).cfg = s.cfg := rfl
@[simp] theorem State.putHeader_cw (b0 b1 b2 b3 : Byte) (d : Half) :
    (s.putHeader b0 b1 b2 b3 d).cw = s.cw := rfl
@[simp] theorem State.putHeader_inLen (b0 b1 b2 b3 : Byte) (d : Half) :
    (s.putHeader b0 b1 b2 b3 d).inLen = s.inLen := rfl
@[simp] theorem State.putHeader_inBuf (b0 b1 b2 b3 : Byte) (d : Half) :
    (s.putHeader b0 b1 b2 b3 d).inBuf = s.inBuf := rfl
@[simp] theorem State.putHeader_status (b0 b1 b2 b3 : Byte) (d : Half) :
    (s.putHeader b0 b1 b2 b3 d).status = statusDone .header := rfl
@[simp] theorem State.putHeader_outLen (b0 b1 b2 b3 : Byte) (d : Half) :
    (s.putHeader b0 b1 b2 b3 d).outLen = s.outLen := rfl
@[simp] theorem State.putHeader_reportId (b0 b1 b2 b3 : Byte) (d : Half) :
    (s.putHeader b0 b1 b2 b3 d).reportId = s.reportId := rfl
@[simp] theorem State.putHeader_declLen (b0 b1 b2 b3 : Byte) (d : Half) :
    (s.putHeader b0 b1 b2 b3 d).declLen = some d := rfl
@[simp] theorem State.putHeader_hdrB0 (b0 b1 b2 b3 : Byte) (d : Half) :
    (s.putHeader b0 b1 b2 b3 d).hdrB0 = some b0 := rfl
@[simp] theorem State.putHeader_hdrB1 (b0 b1 b2 b3 : Byte) (d : Half) :
    (s.putHeader b0 b1 b2 b3 d).hdrB1 = some b1 := rfl
@[simp] theorem State.putHeader_hdrB2 (b0 b1 b2 b3 : Byte) (d : Half) :
    (s.putHeader b0 b1 b2 b3 d).hdrB2 = some b2 := rfl
@[simp] theorem State.putHeader_hdrB3 (b0 b1 b2 b3 : Byte) (d : Half) :
    (s.putHeader b0 b1 b2 b3 d).hdrB3 = some b3 := rfl
@[simp] theorem State.putHeader_value (b0 b1 b2 b3 : Byte) (d : Half) :
    (s.putHeader b0 b1 b2 b3 d).value = s.value := rfl
@[simp] theorem State.putHeader_outBuf (b0 b1 b2 b3 : Byte) (d : Half) :
    (s.putHeader b0 b1 b2 b3 d).outBuf = s.outBuf := rfl
@[simp] theorem State.putHeader_host (b0 b1 b2 b3 : Byte) (d : Half) :
    (s.putHeader b0 b1 b2 b3 d).host = s.host := rfl
@[simp] theorem State.putHeader_hostSeen (b0 b1 b2 b3 : Byte) (d : Half) :
    (s.putHeader b0 b1 b2 b3 d).hostSeen = s.hostSeen := rfl

/-! `State.putValue` -/

@[simp] theorem State.putValue_cfg (v : Nat) : (s.putValue v).cfg = s.cfg := rfl
@[simp] theorem State.putValue_cw (v : Nat) : (s.putValue v).cw = s.cw := rfl
@[simp] theorem State.putValue_inLen (v : Nat) : (s.putValue v).inLen = s.inLen := rfl
@[simp] theorem State.putValue_inBuf (v : Nat) : (s.putValue v).inBuf = s.inBuf := rfl
@[simp] theorem State.putValue_status (v : Nat) : (s.putValue v).status = statusDone .value := rfl
@[simp] theorem State.putValue_outLen (v : Nat) : (s.putValue v).outLen = s.outLen := rfl
@[simp] theorem State.putValue_reportId (v : Nat) : (s.putValue v).reportId = s.reportId := rfl
@[simp] theorem State.putValue_declLen (v : Nat) : (s.putValue v).declLen = s.declLen := rfl
@[simp] theorem State.putValue_hdrB0 (v : Nat) : (s.putValue v).hdrB0 = s.hdrB0 := rfl
@[simp] theorem State.putValue_hdrB1 (v : Nat) : (s.putValue v).hdrB1 = s.hdrB1 := rfl
@[simp] theorem State.putValue_hdrB2 (v : Nat) : (s.putValue v).hdrB2 = s.hdrB2 := rfl
@[simp] theorem State.putValue_hdrB3 (v : Nat) : (s.putValue v).hdrB3 = s.hdrB3 := rfl
@[simp] theorem State.putValue_value (v : Nat) : (s.putValue v).value = some v := rfl
@[simp] theorem State.putValue_outBuf (v : Nat) : (s.putValue v).outBuf = s.outBuf := rfl
@[simp] theorem State.putValue_host (v : Nat) : (s.putValue v).host = s.host := rfl
@[simp] theorem State.putValue_hostSeen (v : Nat) : (s.putValue v).hostSeen = s.hostSeen := rfl

/-! `State.putError` -/

@[simp] theorem State.putError_cfg (e : ErrorCode) : (s.putError e).cfg = s.cfg := rfl
@[simp] theorem State.putError_cw (e : ErrorCode) : (s.putError e).cw = s.cw := rfl
@[simp] theorem State.putError_inLen (e : ErrorCode) : (s.putError e).inLen = s.inLen := rfl
@[simp] theorem State.putError_inBuf (e : ErrorCode) : (s.putError e).inBuf = s.inBuf := rfl
@[simp] theorem State.putError_status (e : ErrorCode) : (s.putError e).status = statusError e := rfl
@[simp] theorem State.putError_outLen (e : ErrorCode) : (s.putError e).outLen = s.outLen := rfl
@[simp] theorem State.putError_reportId (e : ErrorCode) : (s.putError e).reportId = s.reportId := rfl
@[simp] theorem State.putError_declLen (e : ErrorCode) : (s.putError e).declLen = s.declLen := rfl
@[simp] theorem State.putError_hdrB0 (e : ErrorCode) : (s.putError e).hdrB0 = s.hdrB0 := rfl
@[simp] theorem State.putError_hdrB1 (e : ErrorCode) : (s.putError e).hdrB1 = s.hdrB1 := rfl
@[simp] theorem State.putError_hdrB2 (e : ErrorCode) : (s.putError e).hdrB2 = s.hdrB2 := rfl
@[simp] theorem State.putError_hdrB3 (e : ErrorCode) : (s.putError e).hdrB3 = s.hdrB3 := rfl
@[simp] theorem State.putError_value (e : ErrorCode) : (s.putError e).value = s.value := rfl
@[simp] theorem State.putError_outBuf (e : ErrorCode) : (s.putError e).outBuf = s.outBuf := rfl
@[simp] theorem State.putError_host (e : ErrorCode) : (s.putError e).host = s.host := rfl
@[simp] theorem State.putError_hostSeen (e : ErrorCode) : (s.putError e).hostSeen = s.hostSeen := rfl

/-! `State.deliver` -/

@[simp] theorem State.deliver_cfg (v : Nat) : (s.deliver v).cfg = s.cfg := rfl
@[simp] theorem State.deliver_cw (v : Nat) : (s.deliver v).cw = s.cw := rfl
@[simp] theorem State.deliver_inLen (v : Nat) : (s.deliver v).inLen = s.inLen := rfl
@[simp] theorem State.deliver_inBuf (v : Nat) : (s.deliver v).inBuf = s.inBuf := rfl
@[simp] theorem State.deliver_status (v : Nat) : (s.deliver v).status = s.status := rfl
@[simp] theorem State.deliver_outLen (v : Nat) : (s.deliver v).outLen = s.outLen := rfl
@[simp] theorem State.deliver_reportId (v : Nat) : (s.deliver v).reportId = s.reportId := rfl
@[simp] theorem State.deliver_declLen (v : Nat) : (s.deliver v).declLen = s.declLen := rfl
@[simp] theorem State.deliver_hdrB0 (v : Nat) : (s.deliver v).hdrB0 = s.hdrB0 := rfl
@[simp] theorem State.deliver_hdrB1 (v : Nat) : (s.deliver v).hdrB1 = s.hdrB1 := rfl
@[simp] theorem State.deliver_hdrB2 (v : Nat) : (s.deliver v).hdrB2 = s.hdrB2 := rfl
@[simp] theorem State.deliver_hdrB3 (v : Nat) : (s.deliver v).hdrB3 = s.hdrB3 := rfl
@[simp] theorem State.deliver_value (v : Nat) : (s.deliver v).value = s.value := rfl
@[simp] theorem State.deliver_outBuf (v : Nat) : (s.deliver v).outBuf = s.outBuf := rfl
@[simp] theorem State.deliver_host (v : Nat) : (s.deliver v).host = s.host := rfl
@[simp] theorem State.deliver_hostSeen (v : Nat) : (s.deliver v).hostSeen = v :: s.hostSeen := rfl

/-! `State.applyReset` (the reset values of 10_state.md R30) -/

@[simp] theorem State.applyReset_cfg : s.applyReset.cfg = s.cfg := rfl
@[simp] theorem State.applyReset_cw : s.applyReset.cw = none := rfl
@[simp] theorem State.applyReset_inLen : s.applyReset.inLen = none := rfl
@[simp] theorem State.applyReset_inBuf : s.applyReset.inBuf = [] := rfl
@[simp] theorem State.applyReset_status : s.applyReset.status = 0x00#8 := rfl
@[simp] theorem State.applyReset_outLen : s.applyReset.outLen = none := rfl
@[simp] theorem State.applyReset_reportId : s.applyReset.reportId = none := rfl
@[simp] theorem State.applyReset_declLen : s.applyReset.declLen = none := rfl
@[simp] theorem State.applyReset_hdrB0 : s.applyReset.hdrB0 = none := rfl
@[simp] theorem State.applyReset_hdrB1 : s.applyReset.hdrB1 = none := rfl
@[simp] theorem State.applyReset_hdrB2 : s.applyReset.hdrB2 = none := rfl
@[simp] theorem State.applyReset_hdrB3 : s.applyReset.hdrB3 = none := rfl
@[simp] theorem State.applyReset_value : s.applyReset.value = none := rfl
@[simp] theorem State.applyReset_outBuf : s.applyReset.outBuf = [] := rfl
@[simp] theorem State.applyReset_host : s.applyReset.host = s.host := rfl
@[simp] theorem State.applyReset_hostSeen : s.applyReset.hostSeen = s.hostSeen := rfl

end Sys2Proof.Machine
end

