-- ==== Sys2Proof/Laws/Issue.lean ====
section
/-! SUPPORT. What each shared operation of an issue can do, said once. -/

namespace Sys2Proof.Machine

/-- The operand is the bytes that stand in IN_BUF from index 0 on. -/
theorem State.operand_eq_some_iff (s : State) (n : Nat) (bs : List Byte) :
    s.operand n = some bs ↔ bs.length = n ∧ ∀ (k : Nat) (h : k < bs.length), s.inBuf.read k = some bs[k] := by
  rw [State.operand, Memory.readFrom_eq_some_iff]
  simp only [Nat.zero_add]

/-- There is no operand exactly where one of its bytes is `⊥`. -/
theorem State.operand_eq_none_iff (s : State) (n : Nat) :
    s.operand n = none ↔ ∃ k, k < n ∧ s.inBuf.read k = none := by
  rw [State.operand, Memory.readFrom_eq_none_iff]
  simp only [Nat.zero_add]

/-- The start of an issue does not touch the operand. -/
@[simp] theorem State.operand_beginIssue (w : Word) (s : State) (n : Nat) : (s.beginIssue w).operand n = s.operand n := rfl

/-- Everything `withOperand` can do: finish on the operand bytes, or the model fault where one is `⊥`. -/
theorem withOperand_cases (n : Nat) (finish : List Byte → State → State) (s : State) :
    (∃ bs, s.operand n = some bs ∧ withOperand n finish s = .next (finish bs s)) ∨
    (s.operand n = none ∧ withOperand n finish s = .fault .readUnwritten) := by
  unfold withOperand
  cases h : s.operand n with
  | none => exact .inr ⟨rfl, rfl⟩
  | some bs => exact .inl ⟨bs, rfl, rfl⟩

/-- An issue with IN_LEN `⊥` is the model fault. -/
theorem issue_of_unwritten {w : Word} {limit : Config → Nat} {perform : Nat → State → Result} {s : State}
    (h : s.inLen = none) : issue w limit perform s = .fault .readUnwritten := by
  simp [issue, h]

/-- An issue with an operand length above IN_CAP or the operation's limit records OPERAND_LENGTH. -/
theorem issue_of_tooLong {w : Word} {limit : Config → Nat} {perform : Nat → State → Result} {s : State} {n : Half}
    (h : s.inLen = some n) (hn : s.cfg.inCap < n.toNat ∨ limit s.cfg < n.toNat) :
    issue w limit perform s = raiseError .operandLength (s.beginIssue w) := by
  rcases hn with hn | hn
  · simp [issue, h, hn]
  · by_cases hc : s.cfg.inCap < n.toNat
    · simp [issue, h, hc]
    · simp [issue, h, hc, hn]

/-- An issue with an admitted operand length performs its operation on the invalidated state. -/
theorem issue_of_admitted {w : Word} {limit : Config → Nat} {perform : Nat → State → Result} {s : State} {n : Half}
    (h : s.inLen = some n) (hc : n.toNat ≤ s.cfg.inCap) (hl : n.toNat ≤ limit s.cfg) :
    issue w limit perform s = perform n.toNat (s.beginIssue w) := by
  simp [issue, h, Nat.not_lt.mpr hc, Nat.not_lt.mpr hl]

/-- Everything an issue of a legal word can do: the model fault, OPERAND_LENGTH, or its operation. -/
theorem issue_cases (w : Word) (limit : Config → Nat) (perform : Nat → State → Result) (s : State) :
    (s.inLen = none ∧ issue w limit perform s = .fault .readUnwritten) ∨
    (∃ n, s.inLen = some n ∧ (s.cfg.inCap < n.toNat ∨ limit s.cfg < n.toNat) ∧
      issue w limit perform s = raiseError .operandLength (s.beginIssue w)) ∨
    (∃ n, s.inLen = some n ∧ n.toNat ≤ s.cfg.inCap ∧ n.toNat ≤ limit s.cfg ∧
      issue w limit perform s = perform n.toNat (s.beginIssue w)) := by
  cases h : s.inLen with
  | none => exact .inl ⟨rfl, issue_of_unwritten h⟩
  | some n =>
    by_cases hn : s.cfg.inCap < n.toNat ∨ limit s.cfg < n.toNat
    · exact .inr (.inl ⟨n, rfl, hn, issue_of_tooLong h hn⟩)
    · rw [not_or, Nat.not_lt, Nat.not_lt] at hn
      exact .inr (.inr ⟨n, rfl, hn.1, hn.2, issue_of_admitted h hn.1 hn.2⟩)

/-- The header operation on fewer than four bytes offered, and on four or more. -/
theorem parseHeader_cases (n : Nat) (s : State) :
    (n < 4 ∧ parseHeader n s = raiseError .truncatedHeader s) ∨
    (4 ≤ n ∧ parseHeader n s = withOperand 4 headerResults s) := by
  unfold parseHeader
  split
  · next h => exact .inl ⟨h, rfl⟩
  · next h => exact .inr ⟨Nat.le_of_not_lt h, rfl⟩

/-- A frame is six bytes and the payload. -/
@[simp] theorem length_frameBytes (d : Direction) (g c : Byte) (p : List Byte) :
    (frameBytes d g c p).length = p.length + 6 := rfl

/-- The declared length is the number of its two bytes: the OR adds no carried bit (41_header_parse.md R81). -/
theorem toNat_declaredLength (b2 b3 : Byte) : (declaredLength b2 b3).toNat = b3.toNat * 256 + b2.toNat := by
  have h2 := b2.isLt
  have h3 := b3.isLt
  have e2 : (BitVec.zeroExtend 16 b2).toNat = b2.toNat := by
    rw [BitVec.toNat_setWidth]
    omega
  have e3 : (BitVec.zeroExtend 16 b3 <<< 8).toNat = b3.toNat <<< 8 := by
    rw [BitVec.toNat_shiftLeft, BitVec.toNat_setWidth, Nat.shiftLeft_eq, Nat.shiftLeft_eq]
    omega
  rw [declaredLength, BitVec.toNat_or, e2, e3, ← Nat.shiftLeft_add_eq_or_of_lt h2, Nat.shiftLeft_eq]

/-- The instruction's operation, after the checks of its issue. -/
def performOf : Instr → Nat → State → Result
  | .buildW g c => buildFrame .write g c
  | .buildR g c => buildFrame .read g c
  | .parse => parseHeader
  | .combbe => fun n => withOperand n (fun bytes => State.putValue (combineBE bytes))
  | .decle => fun n => withOperand n (fun bytes => State.putValue (decodeLE bytes))
  | .scan => buildFrame .write 0x02#8 0x18#8
  | .getcfg => buildFrame .read 0x02#8 0x23#8
  | .fsize => buildFrame .read 0x00#8 0x2D#8
  | .fchunk => buildFrame .read 0x00#8 0x2E#8

/-- Every step is the idle step, a host access, or the refusal of the configuration. -/
theorem step_cases (s : State) :
    (¬ s.cfg.Legal ∧ step s = .refused .illegalConfig) ∨
    (s.cfg.Legal ∧ s.host = [] ∧ step s = .next s) ∨
    (∃ a rest, s.cfg.Legal ∧ s.host = a :: rest ∧ step s = hostAccess a (s.takeAccess rest)) := by
  unfold step advance
  split
  · next hl =>
    split
    · next h => exact .inr (.inl ⟨hl, h, rfl⟩)
    · next a rest h => exact .inr (.inr ⟨a, rest, hl, h, rfl⟩)
  · next hl => exact .inl ⟨hl, rfl⟩

end Sys2Proof.Machine
end

