-- ==== Sys2Proof/Laws/Dispatch.lean ====
section
/-! SUPPORT. Every instruction's meaning is an issue of its own command word: the one place exec is unfolded. -/

namespace Sys2Proof.Machine

/-- An instruction is the issue of its command word, with its own limit and operation. -/
theorem exec_eq_issue (i : Instr) (s : State) :
    exec i s = issue (encode i) (fun cfg => operandLimit cfg i) (performOf i) s := by
  cases i <;> rfl

/-- Everything an instruction can do: the model fault for IN_LEN, OPERAND_LENGTH, or its operation. -/
theorem exec_cases (i : Instr) (s : State) :
    (s.inLen = none ∧ exec i s = .fault .readUnwritten) ∨
    (∃ n, s.inLen = some n ∧ (s.cfg.inCap < n.toNat ∨ operandLimit s.cfg i < n.toNat) ∧
      exec i s = raiseError .operandLength (s.beginIssue (encode i))) ∨
    (∃ n, s.inLen = some n ∧ n.toNat ≤ s.cfg.inCap ∧ n.toNat ≤ operandLimit s.cfg i ∧
      exec i s = performOf i n.toNat (s.beginIssue (encode i))) := by
  rw [exec_eq_issue]
  exact issue_cases _ _ _ s

/-- The state after an instruction that goes on: an error, a frame, a header or a value, on the invalidated state. -/
theorem exec_next_cases {i : Instr} {s t : State} (h : exec i s = .next t) :
    (∃ err, (err = .operandLength ∨ err = .truncatedHeader) ∧
      t = (s.beginIssue (encode i)).putError err) ∨
    (∃ d g c n p, s.inLen = some n ∧ n.toNat ≤ operandLimit s.cfg i ∧ n.toNat ≤ s.cfg.inCap ∧
      operandLimit s.cfg i = s.cfg.maxPayload ∧ s.operand n.toNat = some p ∧
      ((i.op = 0 ∧ d = .write) ∨ (i.op = 1 ∧ d = .read)) ∧
      t = (s.beginIssue (encode i)).putFrame (frameBytes d g c p)) ∨
    (i = .parse ∧ ∃ b0 b1 b2 b3, s.operand 4 = some [b0, b1, b2, b3] ∧
      t = (s.beginIssue (encode i)).putHeader b0 b1 b2 b3 (declaredLength b2 b3)) ∨
    ((i = .combbe ∨ i = .decle) ∧ ∃ n p, s.inLen = some n ∧ n.toNat ≤ s.cfg.maxCombine ∧
      s.operand n.toNat = some p ∧
      t = (s.beginIssue (encode i)).putValue (if i = .combbe then combineBE p else decodeLE p)) := by
  rcases exec_cases i s with ⟨_, he⟩ | ⟨n, _, _, he⟩ | ⟨n, hn, hc, hl, he⟩
  · rw [he] at h; cases h
  · rw [he] at h; cases h
    exact .inl ⟨_, .inl rfl, rfl⟩
  · rw [he] at h
    have frame : ∀ d g c, buildFrame d g c n.toNat (s.beginIssue (encode i)) = .next t →
        ∃ p, s.operand n.toNat = some p ∧ t = (s.beginIssue (encode i)).putFrame (frameBytes d g c p) := by
      intro d g c hb
      rcases withOperand_cases n.toNat (fun p => State.putFrame (frameBytes d g c p)) (s.beginIssue (encode i)) with
        ⟨p, hp, hq⟩ | ⟨_, hq⟩
      · rw [buildFrame, hq] at hb; cases hb
        exact ⟨p, hp, rfl⟩
      · rw [buildFrame, hq] at hb; cases hb
    have value : ∀ f : List Byte → Nat,
        withOperand n.toNat (fun p => State.putValue (f p)) (s.beginIssue (encode i)) = .next t →
        ∃ p, s.operand n.toNat = some p ∧ t = (s.beginIssue (encode i)).putValue (f p) := by
      intro f hb
      rcases withOperand_cases n.toNat (fun p => State.putValue (f p)) (s.beginIssue (encode i)) with
        ⟨p, hp, hq⟩ | ⟨_, hq⟩
      · rw [hq] at hb; cases hb
        exact ⟨p, hp, rfl⟩
      · rw [hq] at hb; cases hb
    cases i with
    | buildW g c =>
      obtain ⟨p, hp, ht⟩ := frame _ _ _ h
      exact .inr (.inl ⟨_, g, c, n, p, hn, hl, hc, rfl, hp, .inl ⟨rfl, rfl⟩, ht⟩)
    | buildR g c =>
      obtain ⟨p, hp, ht⟩ := frame _ _ _ h
      exact .inr (.inl ⟨_, g, c, n, p, hn, hl, hc, rfl, hp, .inr ⟨rfl, rfl⟩, ht⟩)
    | scan =>
      obtain ⟨p, hp, ht⟩ := frame _ _ _ h
      exact .inr (.inl ⟨_, _, _, n, p, hn, hl, hc, rfl, hp, .inl ⟨rfl, rfl⟩, ht⟩)
    | getcfg =>
      obtain ⟨p, hp, ht⟩ := frame _ _ _ h
      exact .inr (.inl ⟨_, _, _, n, p, hn, hl, hc, rfl, hp, .inr ⟨rfl, rfl⟩, ht⟩)
    | fsize =>
      obtain ⟨p, hp, ht⟩ := frame _ _ _ h
      exact .inr (.inl ⟨_, _, _, n, p, hn, hl, hc, rfl, hp, .inr ⟨rfl, rfl⟩, ht⟩)
    | fchunk =>
      obtain ⟨p, hp, ht⟩ := frame _ _ _ h
      exact .inr (.inl ⟨_, _, _, n, p, hn, hl, hc, rfl, hp, .inr ⟨rfl, rfl⟩, ht⟩)
    | combbe =>
      obtain ⟨p, hp, ht⟩ := value _ h
      exact .inr (.inr (.inr ⟨.inl rfl, n, p, hn, hl, hp, by simpa using ht⟩))
    | decle =>
      obtain ⟨p, hp, ht⟩ := value _ h
      exact .inr (.inr (.inr ⟨.inr rfl, n, p, hn, hl, hp, by simpa using ht⟩))
    | parse =>
      rcases parseHeader_cases n.toNat (s.beginIssue (encode .parse)) with ⟨_, hq⟩ | ⟨_, hq⟩
      · rw [show performOf .parse = parseHeader from rfl, hq] at h; cases h
        exact .inl ⟨_, .inr rfl, rfl⟩
      · rcases withOperand_cases 4 headerResults (s.beginIssue (encode .parse)) with ⟨p, hp, hr⟩ | ⟨_, hr⟩
        · rw [show performOf .parse = parseHeader from rfl, hq, hr] at h; cases h
          rw [State.operand_beginIssue] at hp
          obtain ⟨hl4, _⟩ := (State.operand_eq_some_iff _ _ _).mp hp
          match p, hl4 with
          | [b0, b1, b2, b3], _ => exact .inr (.inr (.inl ⟨rfl, b0, b1, b2, b3, hp, rfl⟩))
        · rw [show performOf .parse = parseHeader from rfl, hq, hr] at h; cases h

end Sys2Proof.Machine
end

