-- ==== Sys2Proof/Laws/PerInstr.lean ====
section
/-! SUPPORT. What is shown of every instruction, one lemma a constructor. -/

namespace Sys2Proof.Laws.EncodeFields

/-- The command word of `i` carries its OP and has every reserved bit clear (30_encoding.md R46). -/
def Statement (i : Instr) : Prop :=
  Word.op (encode i) = i.op ∧ Word.rsvLo (encode i) = 0 ∧ Word.rsvHi (encode i) = 0

theorem buildW (group command : Byte) : Statement (.buildW group command) :=
  ⟨op_commandWord .., rsvLo_commandWord .., rsvHi_commandWord ..⟩

theorem buildR (group command : Byte) : Statement (.buildR group command) :=
  ⟨op_commandWord .., rsvLo_commandWord .., rsvHi_commandWord ..⟩

theorem parse : Statement .parse := ⟨op_commandWord .., rsvLo_commandWord .., rsvHi_commandWord ..⟩

theorem combbe : Statement .combbe := ⟨op_commandWord .., rsvLo_commandWord .., rsvHi_commandWord ..⟩

theorem decle : Statement .decle := ⟨op_commandWord .., rsvLo_commandWord .., rsvHi_commandWord ..⟩

theorem scan : Statement .scan := ⟨op_commandWord .., rsvLo_commandWord .., rsvHi_commandWord ..⟩

theorem getcfg : Statement .getcfg := ⟨op_commandWord .., rsvLo_commandWord .., rsvHi_commandWord ..⟩

theorem fsize : Statement .fsize := ⟨op_commandWord .., rsvLo_commandWord .., rsvHi_commandWord ..⟩

theorem fchunk : Statement .fchunk := ⟨op_commandWord .., rsvLo_commandWord .., rsvHi_commandWord ..⟩

end Sys2Proof.Laws.EncodeFields
end

