-- ==== Sys2Proof/Tests/Slice0.lean ====
section
/-! SUPPORT. The author's own tests, and a witness for the hypotheses of each statement.

Expected results come from spec/: the words from 30_encoding.md R46 and opcode_table.json, the vectors B, H, V, E and S from
95_test_vectors.md. -/

namespace Sys2Proof.Tests

open Sys2Proof Sys2Proof.Machine

/-! ## Helpers -/

/-- The reset state with IN_LEN `n` and `bytes` in IN_BUF from index 0 on. -/
def ready (n : Nat) (bytes : List Byte) : State :=
  { State.reset with inLen := some (BitVec.ofNat 16 n), inBuf := Memory.writeFrom [] 0 bytes }

/-- `s` with the host about to make the accesses `l`. -/
def hosting (l : List HostAccess) (s : State) : State := { s with host := l }

/-- A field of the next state. -/
def after {α : Type} (f : State → α) : Result → Option α
  | .next t => some (f t)
  | .fault _ => none
  | .refused _ => none

/-- The bytes of OUT_BUF from index 0 on, as a host would read OUT[0] to OUT[n-1]. -/
def frame (t : State) : List Byte := t.outBuf.map Prod.snd

/-- Whether a step is the model fault. -/
def isFault : Result → Bool
  | .fault .readUnwritten => true
  | _ => false

/-- The refusal of a step. -/
def refusal : Result → Option Refusal
  | .refused r => some r
  | _ => none

/-! ## Well-formedness: an ill-formed term for each check -/

theorem test_wellFormed_refuses_word_of_scan : (Instr.buildW 0x02 0x18).wellFormed = false := by decide
theorem test_wellFormed_refuses_word_of_getcfg : (Instr.buildR 0x02 0x23).wellFormed = false := by decide
theorem test_wellFormed_refuses_word_of_fsize : (Instr.buildR 0x00 0x2D).wellFormed = false := by decide
theorem test_wellFormed_refuses_word_of_fchunk : (Instr.buildR 0x00 0x2E).wellFormed = false := by decide
theorem test_wellFormed_accepts_other_direction : (Instr.buildR 0x02 0x18).wellFormed = true := by decide

/-! ## Decoding: the words bit by bit, RSV_HI, CMD, GROUP, RSV_LO, OP (R46, R48) -/

theorem test_decode_buildW : decode 0b00000000_11001101_10101011_00000_000#32 = .ok (.buildW 0xAB 0xCD) := by decide
theorem test_decode_buildR : decode 0b00000000_11001101_10101011_00000_001#32 = .ok (.buildR 0xAB 0xCD) := by decide
theorem test_decode_parse : decode 0b00000000_00000000_00000000_00000_010#32 = .ok .parse := by decide
theorem test_decode_combbe : decode 0b00000000_00000000_00000000_00000_011#32 = .ok .combbe := by decide
theorem test_decode_decle : decode 0b00000000_00000000_00000000_00000_100#32 = .ok .decle := by decide
theorem test_decode_scan : decode 0b00000000_00011000_00000010_00000_000#32 = .ok .scan := by decide
theorem test_decode_getcfg : decode 0b00000000_00100011_00000010_00000_001#32 = .ok .getcfg := by decide
theorem test_decode_fsize : decode 0b00000000_00101101_00000000_00000_001#32 = .ok .fsize := by decide
theorem test_decode_fchunk : decode 0b00000000_00101110_00000000_00000_001#32 = .ok .fchunk := by decide

/-- Vectors E1 to E9: illegal words, by the reason. -/
theorem test_decode_refuses_illegal_words :
    decode 0x00000005 = .error .reservedOp ∧ decode 0x00000006 = .error .reservedOp ∧
    decode 0x00000007 = .error .reservedOp ∧ decode 0x00000008 = .error .reservedBit ∧
    decode 0x01000000 = .error .reservedBit ∧ decode 0x80000000 = .error .reservedBit ∧
    decode 0x00000102 = .error .reservedBit ∧ decode 0x00010003 = .error .reservedBit ∧
    decode 0x80000004 = .error .reservedBit := by decide

theorem test_encode_words :
    encode (.buildW 0x02 0x18) = 0x00180200 ∧ encode (.buildR 0xAB 0xCD) = 0x00CDAB01 ∧ encode .scan = 0x00180200 ∧
    encode .getcfg = 0x00230201 ∧ encode .fsize = 0x002D0001 ∧ encode .fchunk = 0x002E0001 := by decide

theorem test_decodeTableWord_rows :
    decodeTableWord 32 0x00000000 = some (.buildW 0 0) ∧ decodeTableWord 32 0x00180200 = some .scan ∧
    decodeTableWord 32 0x00000009 = none ∧ decodeTableWord 40 0x100000002 = none := by decide

/-- A placed word runs as the first instruction after reset, as BUILD.R 0x00, 0x2E, [] does (S10). -/
theorem test_placed_word_runs_after_reset :
    after frame (step (State.reset.withFetchWord 32 0x002E0001)) = some [0xC0, 0x00, 0x02, 0x00, 0x2E, 0x00] := by decide

/-! ## BUILD.W and BUILD.R -/

/-- Vector B8: bytes equal to flags values have no special meaning. -/
theorem test_buildW_copies_bytes :
    after frame (exec (.buildW 0xC0 0x40) (ready 1 [0xC0])) = some [0x40, 0x00, 0x03, 0x00, 0x40, 0xC0, 0xC0] := by decide

/-- Vector B6: n = 59 is above MAX_PAYLOAD. -/
theorem test_buildW_over_maxPayload :
    after (fun t => (t.status, t.outLen, t.outBuf)) (exec (.buildW 0x01 0x01) (ready 59 [])) = some (0x0C, none, []) := by
  decide

/-- Vector B3: the command byte before the group byte, flags 0xC0. -/
theorem test_buildR_orders_bytes :
    after (fun t => (frame t, t.outLen, t.reportId, t.status)) (exec (.buildR 0xAB 0xCD) (ready 3 [0x11, 0x22, 0x33])) =
      some ([0xC0, 0x00, 0x05, 0x00, 0xCD, 0xAB, 0x11, 0x22, 0x33], some 9, some 0, 0x01) := by decide

/-- Vector B10: with other parameters, n = 254 carries into the length's most significant byte. -/
theorem test_buildR_length_carries :
    after (fun t => (t.outBuf.read 2, t.outBuf.read 3, t.outLen))
      (exec (.buildR 0x00 0x2E)
        { ready 254 (List.replicate 254 0xAA) with cfg := { inCap := 400, maxPayload := 300, maxCombine := 4 } }) =
      some (some 0x00, some 0x01, some 260) := by decide +kernel

/-! ## PARSE -/

/-- Vector H3. -/
theorem test_parse_length_is_little_endian :
    after (fun t => (t.hdrB0, t.hdrB1, t.declLen, t.status)) (exec .parse (ready 4 [0x12, 0x34, 0x34, 0x12])) =
      some (some 0x12, some 0x34, some 0x1234, 0x02) := by decide

/-- Vector H10: three bytes offered, none of them read. -/
theorem test_parse_truncated : after (fun t => (t.status, t.declLen)) (exec .parse (ready 3 [])) = some (0x04, none) := by
  decide

/-! ## COMBBE and DECLE -/

/-- Vector V6: a large unsigned value, not a negative one. -/
theorem test_combbe_is_unsigned :
    after (fun t => (t.value, t.status)) (exec .combbe (ready 4 [0x80, 0x00, 0x00, 0x00])) =
      some (some 0x80000000, 0x03) := by decide

/-- Vector E12: n = 5 is above MAX_COMBINE. -/
theorem test_combbe_over_maxCombine : after State.status (exec .combbe (ready 5 [])) = some 0x0C := by decide

/-- Vector V5. -/
theorem test_decle_reverses :
    after State.value (exec .decle (ready 4 [0x78, 0x56, 0x34, 0x12])) = some (some 0x12345678) := by decide

/-- Vector V10: trailing zero bytes do not change the value. -/
theorem test_decle_trailing_zero : after State.value (exec .decle (ready 2 [0xC8, 0x00])) = some (some 200) := by decide

/-! ## Pseudo-operations (S10) -/

theorem test_scan_frame :
    after frame (exec .scan (ready 1 [0x00])) = some [0x40, 0x00, 0x03, 0x00, 0x18, 0x02, 0x00] := by decide

theorem test_getcfg_frame :
    after frame (exec .getcfg (ready 0 [])) = some [0xC0, 0x00, 0x02, 0x00, 0x23, 0x02] := by decide

theorem test_fsize_frame :
    after frame (exec .fsize (ready 1 [0x03])) = some [0xC0, 0x00, 0x03, 0x00, 0x2D, 0x00, 0x03] := by decide

theorem test_fchunk_frame :
    after frame (exec .fchunk (ready 0 [])) = some [0xC0, 0x00, 0x02, 0x00, 0x2E, 0x00] := by decide

/-! ## Issues through the host interface: priority and model faults -/

/-- Vector E3: ILLEGAL_OP before OPERAND_LENGTH. -/
theorem test_illegal_word_beats_length :
    after State.status (step (hosting [.writeReg 0x00 0x00000007] (ready 300 []))) = some 0x08 := by decide

/-- Vectors E15 and E16: IN_LEN never written. -/
theorem test_unwritten_length :
    isFault (step (hosting [.writeReg 0x00 0x00000002] State.reset)) = true ∧
    after State.status (step (hosting [.writeReg 0x00 0x00000005] State.reset)) = some 0x08 := by decide

/-- Vector H12: IN[2] never written. -/
theorem test_unwritten_operand_byte :
    isFault (exec .parse { ready 4 [] with inBuf := [(0, 0xC0), (1, 0x00), (3, 0x00)] }) = true := by decide

/-- Vector H11: OPERAND_LENGTH before TRUNCATED_HEADER could be asked. -/
theorem test_parse_over_inCap : after State.status (exec .parse (ready 65 [])) = some 0x0C := by decide

/-! ## Host accesses (section 2.4 of the vectors) -/

theorem test_refused_accesses :
    refusal (step (hosting [.writeReg 0x02 0] State.reset)) = some .readOnlyWrite ∧
    refusal (step (hosting [.writeReg 0x05 5] State.reset)) = some .readOnlyWrite ∧
    refusal (step (hosting [.writeReg 0x0B 0] State.reset)) = some .unusedRegister ∧
    refusal (step (hosting [.writeReg 0x01 65536] State.reset)) = some .valueTooWide ∧
    refusal (step (hosting [.writeIn 64 0] State.reset)) = some .inIndexOutOfRange ∧
    refusal (step (hosting [.readOut 64] State.reset)) = some .outIndexOutOfRange := by decide

/-- 95_test_vectors.md section 2.4: "A read right after reset of any register but STATUS" is the model fault, after
the first reset and after a RESET access alike (R30, R106); `RD STATUS` gives 0x00. -/
theorem test_read_after_reset :
    (∀ number ∈ ([0x00, 0x01, 0x03, 0x04, 0x05, 0x06, 0x07, 0x08, 0x09, 0x0A] : List Byte),
      isFault (step (hosting [.readReg number] State.reset)) = true ∧
      isFault (run 2 (hosting [.reset, .readReg number] (ready 1 [0xFF]))) = true) ∧
    after State.hostSeen (step (hosting [.readReg 0x02] State.reset)) = some [0x00] := by decide

/-- A configuration with MAX_PAYLOAD above IN_CAP is refused (R4). -/
theorem test_illegal_config :
    refusal (step { State.reset with cfg := { inCap := 64, maxPayload := 65, maxCombine := 4 } }) =
      some .illegalConfig := by decide

/-! ## The assembler (R57, R58) -/

theorem test_readLine_build : readLine "BUILD.W  0x02, 0x18, [0x00]" = some (.buildW 0x02 0x18 [0x00]) := by decide
theorem test_readLine_decle : readLine "DECLE [0x78, 86,52 , 0x12] ; size" = some (.decle [0x78, 0x56, 0x34, 0x12]) := by
  decide
theorem test_readLine_access :
    readLine "WR IN[64], 0" = some (.access (.writeIn 64 0)) ∧
    readLine "WR CW, 0x00180200" = some (.access (.writeReg 0x00 0x00180200)) ∧
    readLine "RD OUT[6]" = some (.access (.readOut 6)) ∧ readLine "RD HDR_B3" = some (.access (.readReg 0x09)) ∧
    readLine "RESET" = some (.access .reset) ∧ readLine "BUILD.W 0x02, 0x18" = none := by decide

/-- P3: `FSIZE 0x03`. -/
theorem test_assemble_fsize :
    (readLine "FSIZE 0x03").map AsmLine.assemble =
      some [.writeIn 0 0x03, .writeReg 0x01 1, .writeReg 0x00 0x002D0001] := by decide

/-! ## Witnesses: each statement's hypotheses are met together -/

theorem witness_ResetStateMeetsInvariant : Config.standard.Legal := by decide

theorem witness_EveryStepKeepsInvariant :
    ∃ s t : State, s.Invariant ∧ step s = .next t ∧ t.status = 0x08#8 :=
  ⟨hosting [.writeReg 0x00 0x00000005] State.reset, _,
    ⟨by decide, List.Pairwise.nil, by decide, List.Pairwise.nil, by decide,
      .inl ⟨.inl rfl, rfl, rfl, fun _ => rfl, rfl, rfl, rfl, rfl, rfl, rfl⟩⟩, rfl, rfl⟩

theorem witness_StepRunsDecodedInstruction :
    ∃ (s : State) (rest : List HostAccess) (v : Nat) (i : Instr),
      s.cfg.Legal ∧ s.host = .writeReg 0x00#8 v :: rest ∧ v < 2 ^ 32 ∧ decode (BitVec.ofNat 32 v) = .ok i :=
  ⟨hosting [.writeReg 0x00 0x00FFFF00, .readReg 0x02] (ready 0 []), [.readReg 0x02], 0x00FFFF00, .buildW 0xFF 0xFF,
    by decide⟩

theorem witness_PlacedWordRunsNext :
    ∃ (s : State) (nbits w : Nat) (i : Instr), s.cfg.Legal ∧ decodeTableWord nbits w = some i :=
  ⟨State.reset, 32, 4, .decle, by decide⟩

theorem witness_IllegalConfigurationIsRefused :
    ∃ s : State, ¬ s.cfg.Legal :=
  ⟨{ State.reset with cfg := { inCap := 65536, maxPayload := 58, maxCombine := 4 } }, by decide⟩

theorem witness_IdleStepChangesNothing : ∃ s : State, s.cfg.Legal ∧ s.host = [] := ⟨State.reset, by decide⟩

theorem witness_ResetAccessSetsEveryRegister :
    ∃ (s : State) (rest : List HostAccess), s.cfg.Legal ∧ s.host = .reset :: rest :=
  ⟨hosting [.reset, .readReg 0x02] (ready 1 [0xFF]), [.readReg 0x02], by decide⟩

theorem witness_EveryStepTakesOneAccess : ∃ s t : State, step s = .next t ∧ s.host ≠ [] :=
  ⟨hosting [.readReg 0x02] State.reset, _, rfl, by decide⟩

theorem witness_DecodeInvertsEncode : ∃ i : Instr, i.wellFormed = true := ⟨.buildW 0x02 0x19, by decide⟩

theorem witness_EncodeInvertsDecode : ∃ (w : Word) (i : Instr), decode w = .ok i := ⟨0x002E0001, .fchunk, by decide⟩

/-- Each clause: a refused word, and a legal one whose issue goes on. -/
theorem witness_DecodeRefusesExactlyIllegalWords :
    (∃ e, decode 0x00000105#32 = .error e) ∧ (¬ ∃ e, decode 0x00FFFF01#32 = .error e) ∧
    ∃ s t : State, issueWord 0x00FFFF01#32 s = .next t :=
  have legal : decode 0x00FFFF01#32 = .ok (.buildR 0xFF 0xFF) := by decide
  ⟨⟨.reservedOp, by decide⟩, by simp [legal], ready 0 [], _, rfl⟩

/-- Each clause: a word of OP 0, 1, 2, 3 and 4. -/
theorem witness_DecodedInstructionHasTheWordsFields :
    (∃ i, decode 0x00FFFF00 = .ok i) ∧ (∃ i, decode 0x002D0001 = .ok i) ∧ (∃ i, decode 0x00000002 = .ok i) ∧
    (∃ i, decode 0x00000003 = .ok i) ∧ ∃ i, decode 0x00000004 = .ok i :=
  ⟨⟨.buildW 0xFF 0xFF, by decide⟩, ⟨.fsize, by decide⟩, ⟨.parse, by decide⟩, ⟨.combbe, by decide⟩, ⟨.decle, by decide⟩⟩

/-- Both clauses at MAX_PAYLOAD: all 58 bytes written, and the last one not. -/
theorem witness_BuildsSerializeTheirFrame :
    (∃ (s : State) (n : Half) (p : List Byte), s.cfg.Legal ∧ s.inLen = some n ∧ n.toNat = s.cfg.maxPayload ∧
      p.length = n.toNat ∧ s.InputIs p) ∧
    ∃ (s : State) (n : Half), s.cfg.Legal ∧ s.inLen = some n ∧ n.toNat = s.cfg.maxPayload ∧
      ∃ k, k < n.toNat ∧ s.inBuf.read k = none :=
  ⟨⟨ready 58 (List.replicate 58 0xAA), 58, List.replicate 58 0xAA, by decide +kernel⟩,
    ⟨ready 58 (List.replicate 57 0xAA), 58, by decide, by decide, by decide, 57, by decide +kernel⟩⟩

theorem witness_PseudoOperationsSerializeTheirFrame :
    ∃ (s : State) (n : Half) (p : List Byte), s.cfg.Legal ∧ s.inLen = some n ∧ n.toNat ≤ s.cfg.maxPayload ∧
      p.length = n.toNat ∧ s.InputIs p :=
  ⟨ready 1 [0x03], 1, [0x03], by decide⟩

/-- A built frame, of each direction. -/
theorem witness_FlagsByteIsOneOfTwo :
    (∃ s t : State, exec (.buildW 0x00 0x00) s = .next t ∧ t.status = 0x01#8) ∧
    ∃ s t : State, exec .fchunk s = .next t ∧ t.status = 0x01#8 :=
  ⟨⟨ready 0 [], _, rfl, rfl⟩, ⟨ready 0 [], _, rfl, rfl⟩⟩

theorem witness_FrameLengthFollowsFromItsBytes :
    ∃ (i : Instr) (s t : State), s.cfg.Legal ∧ exec i s = .next t ∧ t.status = 0x01#8 :=
  ⟨.buildR 0xAB 0xCD, ready 3 [0x11, 0x22, 0x33], _, by decide, rfl, rfl⟩

theorem witness_ParseOfBuiltFrameGivesItsLength :
    ∃ (i : Instr) (s t u : State) (n m : Half), s.cfg.Legal ∧ s.inLen = some n ∧ exec i s = .next t ∧ t.status = 0x01#8 ∧
      u.cfg = s.cfg ∧ u.inLen = some m ∧ m.toNat = n.toNat + 6 ∧ m.toNat ≤ u.cfg.inCap ∧
      ∀ k, k < n.toNat + 6 → u.inBuf.read k = t.outBuf.read k :=
  ⟨.scan, ready 1 [0x00], _, ready 7 [0x40, 0x00, 0x03, 0x00, 0x18, 0x02, 0x00], 1, 7, by decide, rfl, rfl, rfl, rfl, rfl,
    by decide, by decide, by decide⟩

/-- Both clauses, at the shortest and the longest length offered. -/
theorem witness_ParseKeepsFourBytesAndDeclaresLength :
    (∃ (s : State) (n : Half) (b0 b1 b2 b3 : Byte), s.inLen = some n ∧ n.toNat = 4 ∧ n.toNat ≤ s.cfg.inCap ∧
      s.inBuf.read 0 = some b0 ∧ s.inBuf.read 1 = some b1 ∧ s.inBuf.read 2 = some b2 ∧ s.inBuf.read 3 = some b3) ∧
    ∃ (s : State) (n : Half), s.inLen = some n ∧ 4 ≤ n.toNat ∧ n.toNat = s.cfg.inCap ∧
      ∃ k, k < 4 ∧ s.inBuf.read k = none :=
  ⟨⟨ready 4 [0xC0, 0x00, 0x05, 0x00], 4, 0xC0, 0x00, 0x05, 0x00, by decide⟩,
    ⟨ready 64 [0xC0, 0x00, 0x05], 64, by decide, by decide, by decide, 3, by decide⟩⟩

theorem witness_ShortParseRaisesTruncatedHeader :
    ∃ (s : State) (n : Half), s.cfg.Legal ∧ s.inLen = some n ∧ n.toNat < 4 := ⟨ready 3 [], 3, by decide⟩

theorem witness_DeclaredLengthAgreesWithCombiner :
    ∃ (s u v : State) (b0 b1 b2 b3 : Byte),
      (s.cfg.Legal ∧ s.inLen = some 4#16 ∧ s.InputIs [b0, b1, b2, b3]) ∧
      (u.cfg.Legal ∧ 2 ≤ u.cfg.maxCombine ∧ u.inLen = some 2#16 ∧ u.InputIs [b2, b3]) ∧
      v.cfg.Legal ∧ 2 ≤ v.cfg.maxCombine ∧ v.inLen = some 2#16 ∧ v.InputIs [b3, b2] :=
  ⟨ready 4 [0x12, 0x34, 0xFF, 0x80], ready 2 [0xFF, 0x80], ready 2 [0x80, 0xFF], 0x12, 0x34, 0xFF, 0x80,
    by decide, by decide, by decide⟩

/-- Both clauses, at MAX_COMBINE. -/
theorem witness_CombbeSumsBigEndianContributions :
    (∃ (s : State) (n : Half) (p : List Byte), s.cfg.Legal ∧ s.inLen = some n ∧ n.toNat = s.cfg.maxCombine ∧
      p.length = n.toNat ∧ s.InputIs p) ∧
    ∃ (s : State) (n : Half), s.cfg.Legal ∧ s.inLen = some n ∧ n.toNat = s.cfg.maxCombine ∧
      ∃ k, k < n.toNat ∧ s.inBuf.read k = none :=
  ⟨⟨ready 4 [0x80, 0x01, 0x02, 0xFF], 4, [0x80, 0x01, 0x02, 0xFF], by decide⟩,
    ⟨ready 4 [0x80], 4, by decide, by decide, by decide, 1, by decide⟩⟩

/-- The hypotheses are those of COMBBE. -/
theorem witness_DecleSumsLittleEndianContributions :
    (∃ (s : State) (n : Half) (p : List Byte), s.cfg.Legal ∧ s.inLen = some n ∧ n.toNat = s.cfg.maxCombine ∧
      p.length = n.toNat ∧ s.InputIs p) ∧
    ∃ (s : State) (n : Half), s.cfg.Legal ∧ s.inLen = some n ∧ n.toNat = s.cfg.maxCombine ∧
      ∃ k, k < n.toNat ∧ s.inBuf.read k = none :=
  witness_CombbeSumsBigEndianContributions

theorem witness_EmptySequenceCombinesToZero : ∃ s : State, s.inLen = some 0#16 := ⟨ready 0 [], by decide⟩

/-- Each operation, at MAX_COMBINE bytes. -/
theorem witness_CombinedValueFitsItsWidth :
    (∃ (s t : State) (v : Nat), exec .combbe s = .next t ∧ t.value = some v ∧ v = 0x80000001) ∧
    ∃ (s t : State) (v : Nat), exec .decle s = .next t ∧ t.value = some v ∧ v = 2 ^ t.cfg.valueWidth - 1 :=
  ⟨⟨ready 4 [0x80, 0x00, 0x00, 0x01], _, _, rfl, rfl, by decide⟩,
    ⟨ready 4 [0xFF, 0xFF, 0xFF, 0xFF], _, _, rfl, rfl, by decide⟩⟩

theorem witness_CombineDeterminesItsBytes : ∃ p q : List Byte, p.length = q.length ∧ decodeLE p = decodeLE q :=
  ⟨[0x01, 0x02], [0x01, 0x02], by decide⟩

/-- Each way a word is illegal. -/
theorem witness_IllegalWordRaisesIllegalOp :
    ∃ s : State, s.cfg.Legal ∧
      (∃ v rest, (hosting [.writeReg 0x00 0x00000005] s).host = .writeReg 0x00#8 v :: rest ∧ v < 2 ^ 32 ∧ 5 ≤ v % 8) ∧
      (∃ v rest, (hosting [.writeReg 0x00 0x01000000] s).host = .writeReg 0x00#8 v :: rest ∧ v < 2 ^ 32 ∧ v % 8 ≤ 1 ∧
        (v / 8 % 32 ≠ 0 ∨ v / 2 ^ 24 ≠ 0)) ∧
      ∃ v rest, (hosting [.writeReg 0x00 0x80000004] s).host = .writeReg 0x00#8 v :: rest ∧ v < 2 ^ 32 ∧ 2 ≤ v % 8 ∧
        v / 8 ≠ 0 :=
  ⟨State.reset, by decide, ⟨5, [], by decide⟩, ⟨0x01000000, [], by decide⟩, ⟨0x80000004, [], by decide⟩⟩

theorem witness_OperandLengthRaisedExactlyWhenTooLong :
    (∃ (s t : State), exec .parse s = .next t ∧ t.status = 0x0C#8) ∧
    ∃ (s : State) (n : Half), s.inLen = some n ∧ s.cfg.maxPayload < n.toNat ∧ n.toNat ≤ s.cfg.inCap :=
  ⟨⟨ready 65 [], _, rfl, rfl⟩, ⟨ready 59 [], 59, by decide⟩⟩

theorem witness_TruncatedHeaderOnlyFromShortParse :
    ∃ (s t : State), s.cfg.Legal ∧ exec .parse s = .next t ∧ t.status = 0x04#8 :=
  ⟨ready 0 [], _, by decide, rfl, rfl⟩

/-- An error of each code, raised by a write of CW. -/
theorem witness_ErrorsArePrecise :
    (∃ t, step (hosting [.writeReg 0x00#8 2] (ready 3 [])) = .next t ∧ t.status.toNat / 4 ≠ 0) ∧
    (∃ t, step (hosting [.writeReg 0x00#8 7] (ready 3 [])) = .next t ∧ t.status.toNat / 4 ≠ 0) ∧
    ∃ t, step (hosting [.writeReg 0x00#8 2] (ready 65 [])) = .next t ∧ t.status.toNat / 4 ≠ 0 :=
  ⟨⟨_, rfl, by decide⟩, ⟨_, rfl, by decide⟩, ⟨_, rfl, by decide⟩⟩

/-- The order of the checks: a state for each rung, by its IN_LEN, word and bytes. -/
theorem witness_ChecksOfAnIssueRunInOrder :
    ((ready 300 []).cfg.Legal ∧ 5 ≤ 7 % 8) ∧ State.reset.inLen = none ∧
    (∃ n : Half, (ready 59 []).inLen = some n ∧ 0x00180200 % 8 ≤ 1 ∧ (ready 59 []).cfg.maxPayload < n.toNat) ∧
    (∃ n : Half, (ready 3 []).inLen = some n ∧ n.toNat ≤ (ready 3 []).cfg.inCap ∧ 2 % 8 = 2 ∧ n.toNat < 4) ∧
    (∃ n : Half, (ready 4 []).inLen = some n ∧ ¬ (2 % 8 = 2 ∧ n.toNat < 4) ∧ (ready 4 []).inBuf.read 3 = none) ∧
    ∀ k, k < 4 → (ready 4 [0xC0, 0x00, 0x05, 0x00]).inBuf.read k ≠ none :=
  ⟨by decide, by decide, ⟨59, by decide⟩, ⟨3, by decide⟩, ⟨4, by decide⟩, by decide⟩

theorem witness_OperandsPersistAcrossIssues :
    ∃ (s t : State) (rest : List HostAccess) (v : Nat), s.host = .writeReg 0x00#8 v :: rest ∧ step s = .next t ∧
      t.status = 0x03#8 :=
  ⟨hosting [.writeReg 0x00 4, .readReg 0x0A] (ready 1 [0xC8]), _, [.readReg 0x0A], 4, rfl, rfl, rfl⟩

theorem witness_IssueLeavesOnlyItsOwnResults :
    ∃ (s t : State) (rest : List HostAccess) (v : Nat), s.host = .writeReg 0x00#8 v :: rest ∧ step s = .next t ∧
      t.status = 0x03#8 :=
  witness_OperandsPersistAcrossIssues

/-- Two states that differ in CW, STATUS, results, stale bytes and the host's side, and agree on the operand. -/
theorem witness_OutcomeDependsOnOperandsOnly :
    ∃ (i : Instr) (s s' t : State), s ≠ s' ∧ s'.cfg = s.cfg ∧ s'.inLen = s.inLen ∧
      (∀ n : Half, s.inLen = some n → ∀ k, k < bytesRead n.toNat i → s'.inBuf.read k = s.inBuf.read k) ∧
      exec i s = .next t :=
  ⟨.combbe, ready 1 [0xC8], { ready 1 [0xC8, 0x07] with status := 0x01, value := some 9, host := [.reset] }, _,
    by decide, rfl, rfl,
    fun n hn k hk => by
      obtain rfl : 1#16 = n := Option.some.inj hn
      obtain rfl : k = 0 := by simpa [bytesRead] using hk
      rfl,
    rfl⟩

/-- A read of a written register and of one that is `⊥`. -/
theorem witness_RegisterReadsReturnTheirContents :
    ∃ s : State, s.cfg.Legal ∧ s.inLen.map BitVec.toNat = some 65535 ∧ s.value = none ∧
      (hosting [.readReg 0x01#8] s).host = .readReg 0x01#8 :: [] :=
  ⟨ready 65535 [], by decide⟩

/-- Each clause: a written and an unwritten byte of each buffer, at the last index. -/
theorem witness_BufferReadsReturnTheirBytes :
    ∃ s : State, s.cfg.Legal ∧ s.host = [.readIn 63] ∧ 63 < s.cfg.inCap ∧ s.inBuf.read 63 = some 0xEE#8 ∧
      s.inBuf.read 62 = none ∧ s.outBuf.read (s.cfg.maxPayload + 5) = none ∧
      ({ s with outBuf := [(63, 0x01#8)] } : State).outBuf.read 63 = some 0x01#8 :=
  ⟨{ State.reset with inBuf := [(63, 0xEE)], host := [.readIn 63] }, by decide⟩

theorem witness_ReadsAreIdempotent :
    ∃ (s t : State) (a : HostAccess) (rest : List HostAccess), a.isRead = true ∧ s.host = a :: a :: rest ∧ step s = .next t :=
  ⟨hosting [.readIn 0, .readIn 0] (ready 1 [0x55]), _, .readIn 0, [], rfl, rfl, rfl⟩

/-- Each clause, at the largest value and index. -/
theorem witness_OperandWritesOnlyStore :
    ∃ s : State, s.cfg.Legal ∧ (∃ rest v, s.host = .writeReg 0x01#8 v :: rest ∧ v = 2 ^ 16 - 1) ∧
      ∃ rest i v, (hosting [.writeIn 63 255] s).host = .writeIn i v :: rest ∧ i + 1 = s.cfg.inCap ∧ v = 2 ^ 8 - 1 :=
  ⟨hosting [.writeReg 0x01 65535] State.reset, by decide, ⟨[], 65535, by decide⟩, ⟨[], 63, 255, by decide⟩⟩

theorem witness_OperandWriteOrderDoesNotMatter :
    ∃ (s : State) (i j v w n : Nat), s.cfg.Legal ∧ s.inBuf.Canonical ∧ i < s.cfg.inCap ∧ j < s.cfg.inCap ∧ i ≠ j ∧
      v < 2 ^ 8 ∧ w < 2 ^ 8 ∧ n < 2 ^ 16 :=
  ⟨ready 2 [0x01, 0x02], 63, 0, 255, 0, 65535, by decide, by decide, by decide⟩

/-- A refused access and one that is not, of each buffer at its capacity. -/
theorem witness_ExactlyMeaninglessAccessesAreRefused :
    ∃ s : State, s.cfg.Legal ∧ MeaninglessAccess s.cfg (.writeIn 64 0) ∧ ¬ MeaninglessAccess s.cfg (.writeIn 63 0) ∧
      MeaninglessAccess s.cfg (.readOut 64) ∧ ¬ MeaninglessAccess s.cfg (.readOut 63) :=
  ⟨State.reset, by decide, by simp [MeaninglessAccess]; decide, by simp [MeaninglessAccess]; decide,
    by simp [MeaninglessAccess]; decide, by simp [MeaninglessAccess]; decide⟩

theorem witness_OnlyIssuesAndResetWriteResults :
    ∃ (s t : State) (a : HostAccess) (rest : List HostAccess), s.host = a :: rest ∧ step s = .next t ∧
      (∀ v, a ≠ .writeReg 0x00#8 v) ∧ a ≠ .reset ∧ t ≠ s :=
  ⟨hosting [.writeIn 0 7] (ready 1 []), _, .writeIn 0 7, [], rfl, rfl, fun _ => by simp, by simp, by decide⟩

theorem witness_AssembledLineRunsItsOperation :
    ∃ (i : Instr) (bytes : List Byte) (s : State) (rest : List HostAccess),
      s.cfg.Legal ∧ bytes.length ≤ s.cfg.inCap ∧ s.host = issueSequence i bytes ++ rest :=
  ⟨.decle, [0x78, 0x56], hosting (issueSequence .decle [0x78, 0x56] ++ [.readReg 0x0A]) State.reset, [.readReg 0x0A],
    by decide, by decide, rfl⟩

/-- Each line, with a payload of one byte admitted. -/
theorem witness_PseudoLinesLeaveTheirFrames :
    ∃ (s : State) (rest : List HostAccess), s.cfg.Legal ∧ 1 ≤ s.cfg.maxPayload ∧
      (hosting (AsmLine.assemble .scan ++ rest) s).host = AsmLine.assemble .scan ++ rest ∧
      (hosting (AsmLine.assemble .getcfg ++ rest) s).host = AsmLine.assemble .getcfg ++ rest ∧
      (hosting (AsmLine.assemble (.fsize 0xFF) ++ rest) s).host = AsmLine.assemble (.fsize 0xFF) ++ rest ∧
      (hosting (AsmLine.assemble .fchunk ++ rest) s).host = AsmLine.assemble .fchunk ++ rest :=
  ⟨State.reset, [], by decide⟩

end Sys2Proof.Tests
end

/-! ## What a host access can do, said once -/

namespace Sys2Proof.Machine

/-- Everything the end of a host read can do: deliver the value, or the model fault where it is `⊥`. -/
theorem finishRead_cases (v : Option Nat) (s : State) :
    (∃ n, v = some n ∧ finishRead v s = .next (s.deliver n)) ∨
    (v = none ∧ finishRead v s = .fault .readUnwritten) := by
  cases v with
  | none => exact .inr ⟨rfl, rfl⟩
  | some n => exact .inl ⟨n, rfl, rfl⟩

/-- Everything a write of CW can do: run the instruction of a legal word, or record ILLEGAL_OP for any other. -/
theorem issueWord_cases (w : Word) (s : State) :
    (∃ i, decode w = .ok i ∧ issueWord w s = exec i s) ∨
    (∃ e, decode w = .error e ∧ issueWord w s = .next ((s.beginIssue w).putError .illegalOp)) := by
  unfold issueWord
  cases h : decode w with
  | ok i => exact .inl ⟨i, rfl, rfl⟩
  | error e => exact .inr ⟨e, rfl, rfl⟩

/-- Everything a register write can do: store IN_LEN, issue a word, or be refused on a ground of its own. -/
theorem writeRegister_cases (number : Byte) (v : Nat) (s : State) :
    (∃ r, r ≠ .illegalConfig ∧ writeRegister number v s = .refused r) ∨
    (Register.ofNumber number = some .inLen ∧ v < 2 ^ 16 ∧
      writeRegister number v s = .next (s.storeInLen (BitVec.ofNat 16 v))) ∨
    (Register.ofNumber number = some .cw ∧ v < 2 ^ 32 ∧
      writeRegister number v s = issueWord (BitVec.ofNat 32 v) s) := by
  unfold writeRegister
  cases Register.ofNumber number with
  | none => exact .inl ⟨.unusedRegister, by decide, rfl⟩
  | some r =>
    cases r with
    | cw =>
      by_cases hv : v < 2 ^ 32
      · exact .inr (.inr ⟨rfl, hv, if_pos hv⟩)
      · exact .inl ⟨.valueTooWide, by decide, if_neg hv⟩
    | inLen =>
      by_cases hv : v < 2 ^ 16
      · exact .inr (.inl ⟨rfl, hv, if_pos hv⟩)
      · exact .inl ⟨.valueTooWide, by decide, if_neg hv⟩
    | _ => exact .inl ⟨.readOnlyWrite, by decide, rfl⟩

/-- Everything a write of an IN_BUF byte can do: store it, or be refused on a ground of its own. -/
theorem writeInByte_cases (i v : Nat) (s : State) :
    (∃ r, r ≠ .illegalConfig ∧ writeInByte i v s = .refused r) ∨
    (i < s.cfg.inCap ∧ v < 2 ^ 8 ∧ writeInByte i v s = .next (s.storeInByte i (BitVec.ofNat 8 v))) := by
  unfold writeInByte
  split
  · next hi =>
    split
    · next hv => exact .inr ⟨hi, hv, rfl⟩
    · exact .inl ⟨.valueTooWide, by decide, rfl⟩
  · exact .inl ⟨.inIndexOutOfRange, by decide, rfl⟩

/-- A host read is the end of a read, or refused on a ground of its own. -/
theorem hostAccess_of_isRead {a : HostAccess} (ha : a.isRead = true) (s : State) :
    (∃ r, r ≠ .illegalConfig ∧ hostAccess a s = .refused r) ∨ ∃ v, hostAccess a s = finishRead v s := by
  cases a with
  | readReg number =>
    simp only [hostAccess, readRegister]
    split
    · exact .inl ⟨.unusedRegister, by decide, rfl⟩
    · next r _ => exact .inr ⟨s.readRegister r, rfl⟩
  | readIn i =>
    simp only [hostAccess, readInByte]
    split
    · exact .inr ⟨_, rfl⟩
    · exact .inl ⟨.inIndexOutOfRange, by decide, rfl⟩
  | readOut i =>
    simp only [hostAccess, readOutByte]
    split
    · exact .inr ⟨_, rfl⟩
    · exact .inl ⟨.outIndexOutOfRange, by decide, rfl⟩
  | _ => cases ha

/-- Everything a host access can do, by its kind; no refusal of an access names the configuration. -/
theorem hostAccess_cases (a : HostAccess) (s : State) :
    (∃ r, r ≠ .illegalConfig ∧ hostAccess a s = .refused r) ∨
    (a.isRead = true ∧ (hostAccess a s = .fault .readUnwritten ∨ ∃ n, hostAccess a s = .next (s.deliver n))) ∨
    (∃ number v, a = .writeReg number v ∧ Register.ofNumber number = some .inLen ∧ v < 2 ^ 16 ∧
      hostAccess a s = .next (s.storeInLen (BitVec.ofNat 16 v))) ∨
    (∃ number v, a = .writeReg number v ∧ Register.ofNumber number = some .cw ∧ v < 2 ^ 32 ∧
      hostAccess a s = issueWord (BitVec.ofNat 32 v) s) ∨
    (∃ i v, a = .writeIn i v ∧ i < s.cfg.inCap ∧ v < 2 ^ 8 ∧
      hostAccess a s = .next (s.storeInByte i (BitVec.ofNat 8 v))) ∨
    (a = .reset ∧ hostAccess a s = .next s.applyReset) := by
  have read (ha : a.isRead = true) : (∃ r, r ≠ .illegalConfig ∧ hostAccess a s = .refused r) ∨
      hostAccess a s = .fault .readUnwritten ∨ ∃ n, hostAccess a s = .next (s.deliver n) := by
    rcases hostAccess_of_isRead ha s with hr | ⟨v, hv⟩
    · exact .inl hr
    · rw [hv]
      rcases finishRead_cases v s with ⟨n, _, hn⟩ | ⟨_, hf⟩
      · exact .inr (.inr ⟨n, hn⟩)
      · exact .inr (.inl hf)
  cases a with
  | readReg number => exact (read rfl).imp id fun h => .inl ⟨rfl, h⟩
  | readIn i => exact (read rfl).imp id fun h => .inl ⟨rfl, h⟩
  | readOut i => exact (read rfl).imp id fun h => .inl ⟨rfl, h⟩
  | writeReg number v =>
    rcases writeRegister_cases number v s with hr | ⟨hreg, hv, hs⟩ | ⟨hreg, hv, hs⟩
    · exact .inl hr
    · exact .inr (.inr (.inl ⟨number, v, rfl, hreg, hv, hs⟩))
    · exact .inr (.inr (.inr (.inl ⟨number, v, rfl, hreg, hv, hs⟩)))
  | writeIn i v =>
    rcases writeInByte_cases i v s with hr | ⟨hi, hv, hs⟩
    · exact .inl hr
    · exact .inr (.inr (.inr (.inr (.inl ⟨i, v, rfl, hi, hv, hs⟩))))
  | writeOut i v => exact .inl ⟨.readOnlyWrite, by decide, rfl⟩
  | reset => exact .inr (.inr (.inr (.inr (.inr ⟨rfl, rfl⟩))))

/-! ## No issue is refused (60_exceptions.md R97) -/

/-- Reading operand bytes refuses nothing. -/
theorem withOperand_ne_refused (n : Nat) (finish : List Byte → State → State) (s : State) (r : Refusal) :
    withOperand n finish s ≠ .refused r := by
  rcases withOperand_cases n finish s with ⟨_, _, h⟩ | ⟨_, h⟩ <;> simp [h]

/-- No operation refuses. -/
theorem performOf_ne_refused (i : Instr) (n : Nat) (s : State) (r : Refusal) : performOf i n s ≠ .refused r := by
  cases i with
  | parse =>
    rcases parseHeader_cases n s with ⟨_, h⟩ | ⟨_, h⟩
    · simp [performOf, h, raiseError]
    · simpa only [performOf, h] using withOperand_ne_refused 4 headerResults s r
  | _ => exact withOperand_ne_refused n _ s r

/-- No instruction is refused. -/
theorem exec_ne_refused (i : Instr) (s : State) (r : Refusal) : exec i s ≠ .refused r := by
  rcases exec_cases i s with ⟨_, h⟩ | ⟨_, _, _, h⟩ | ⟨n, _, _, _, h⟩
  · simp [h]
  · simp [h, raiseError]
  · rw [h]
    exact performOf_ne_refused i n.toNat _ r

/-- No write of a 32-bit value to CW is refused. -/
theorem issueWord_ne_refused (w : Word) (s : State) (r : Refusal) : issueWord w s ≠ .refused r := by
  rcases issueWord_cases w s with ⟨i, _, h⟩ | ⟨_, _, h⟩
  · rw [h]
    exact exec_ne_refused i s r
  · simp [h]

/-- No host access is refused for its configuration: that refusal is the step's own. -/
theorem hostAccess_ne_illegalConfig (a : HostAccess) (s : State) : hostAccess a s ≠ .refused .illegalConfig := by
  rcases hostAccess_cases a s with ⟨r, hr, h⟩ | ⟨_, h | ⟨_, h⟩⟩ | ⟨_, _, _, _, _, h⟩ | ⟨_, _, _, _, _, h⟩ |
    ⟨_, _, _, _, _, h⟩ | ⟨_, h⟩ <;> rw [h]
  case inl => simpa using hr
  case inr.inr.inr.inl => exact issueWord_ne_refused _ s _
  all_goals simp

/-! ## The combiner's range (42_byte_combine.md R88) -/

/-- A combined number has no more than 8 bits for each byte. -/
theorem combineBE_lt (bs : List Byte) : combineBE bs < 2 ^ (8 * bs.length) := by
  induction bs with
  | nil => simp [combineBE]
  | cons b rest ih =>
    have hb : b.toNat + 1 ≤ 2 ^ 8 := b.isLt
    calc combineBE (b :: rest)
        = b.toNat * 2 ^ (8 * rest.length) + combineBE rest := by rw [combineBE, Nat.shiftLeft_eq]
      _ < (b.toNat + 1) * 2 ^ (8 * rest.length) := by rw [Nat.succ_mul b.toNat]; exact Nat.add_lt_add_left ih _
      _ ≤ 2 ^ 8 * 2 ^ (8 * rest.length) := Nat.mul_le_mul_right _ hb
      _ = 2 ^ (8 * (b :: rest).length) := by rw [← Nat.pow_add, List.length_cons]; congr 1; omega

/-- A little-endian decode has no more than 8 bits for each byte. -/
theorem decodeLE_lt (bs : List Byte) : decodeLE bs < 2 ^ (8 * bs.length) := by
  simpa only [decodeLE, List.length_reverse] using combineBE_lt bs.reverse

/-! ## The results of an issue agree with its STATUS (10_state.md R16, R17) -/

/-- After a run of bytes was written to the empty buffer from index 0 on, it holds these bytes and no other. -/
theorem Memory.read_writeFrom_nil (bs : List Byte) (i : Nat) : (Memory.writeFrom [] 0 bs).read i = bs[i]? := by
  rw [Memory.read_writeFrom, Nat.sub_zero, Nat.zero_add, Memory.read_nil, ite_eq_left_iff]
  intro h
  exact (List.getElem?_eq_none (by omega)).symm

/-- An issue that records an error leaves no result, and KIND says so. -/
theorem resultsMatchStatus_putError (w : Word) (e : ErrorCode) (s : State) :
    ((s.beginIssue w).putError e).ResultsMatchStatus := by
  refine .inl ⟨?_, rfl, rfl, fun _ => rfl, rfl, rfl, rfl, rfl, rfl, rfl⟩
  rw [State.putError_status]
  cases e <;> decide

/-- A frame built of a payload within MAX_PAYLOAD is what KIND FRAME says. -/
theorem resultsMatchStatus_putFrame (w : Word) (d : Direction) (g c : Byte) {p : List Byte} {s : State}
    (hp : p.length ≤ s.cfg.maxPayload) :
    ((s.beginIssue w).putFrame (frameBytes d g c p)).ResultsMatchStatus := by
  have read (i : Nat) : ((s.beginIssue w).putFrame (frameBytes d g c p)).outBuf.read i = (frameBytes d g c p)[i]? :=
    Memory.read_writeFrom_nil _ i
  refine .inr (.inl ⟨rfl, ⟨p.length, hp, rfl, fun i => ?_⟩, ?_, read 1, rfl, rfl, rfl, rfl, rfl, rfl, rfl⟩)
  · rw [read, isSome_getElem?, length_frameBytes]
  · rw [read]
    cases d
    · exact .inl rfl
    · exact .inr rfl

/-- The header a PARSE leaves is what KIND HEADER says, its declared length the number of bytes 2 and 3. -/
theorem resultsMatchStatus_putHeader (w : Word) (b0 b1 b2 b3 : Byte) (s : State) :
    ((s.beginIssue w).putHeader b0 b1 b2 b3 (declaredLength b2 b3)).ResultsMatchStatus := by
  refine .inr (.inr (.inl ⟨rfl, ⟨b0, b1, b2, b3, rfl, rfl, rfl, rfl, ?_⟩, rfl, rfl, fun _ => rfl, rfl⟩))
  rw [State.putHeader_declLen, ← toNat_declaredLength, BitVec.ofNat_toNat, BitVec.setWidth_eq]

/-- A number of VALUE_WIDTH bits in VALUE is what KIND VALUE says. -/
theorem resultsMatchStatus_putValue (w : Word) {v : Nat} {s : State} (hv : v < 2 ^ s.cfg.valueWidth) :
    ((s.beginIssue w).putValue v).ResultsMatchStatus :=
  .inr (.inr (.inr ⟨rfl, ⟨v, rfl, hv⟩, rfl, rfl, fun _ => rfl, rfl, rfl, rfl, rfl, rfl⟩))

/-! ## The invariant: it holds at reset, and every named update keeps it -/

section
variable {s : State}

/-- The reset state of a legal configuration meets the invariant. -/
theorem invariant_resetWith {cfg : Config} (h : cfg.Legal) : (State.resetWith cfg).Invariant where
  legal := h
  inBufCanonical := .nil
  inBufBelow := List.forall_mem_nil _
  outBufCanonical := .nil
  outBufBelow := List.forall_mem_nil _
  results := .inl ⟨.inl rfl, rfl, rfl, fun _ => rfl, rfl, rfl, rfl, rfl, rfl, rfl⟩

/-- RESET gives the reset state of the same parameters, and the invariant does not speak of the host's side. -/
theorem State.Invariant.applyReset (h : s.Invariant) : s.applyReset.Invariant :=
  { invariant_resetWith h.legal with }

theorem State.Invariant.takeAccess (h : s.Invariant) (rest : List HostAccess) : (s.takeAccess rest).Invariant :=
  { h with }

theorem State.Invariant.deliver (h : s.Invariant) (v : Nat) : (s.deliver v).Invariant :=
  { h with }

theorem State.Invariant.storeInLen (h : s.Invariant) (v : Half) : (s.storeInLen v).Invariant :=
  { h with }

theorem State.Invariant.storeInByte (h : s.Invariant) {i : Nat} (hi : i < s.cfg.inCap) (v : Byte) :
    (s.storeInByte i v).Invariant :=
  { h with
    inBufCanonical := Memory.canonical_write h.inBufCanonical i v
    inBufBelow := Memory.below_write h.inBufBelow hi v }

/-- An issue that leaves OUT_BUF empty keeps the invariant as soon as its results agree with its STATUS. -/
theorem State.Invariant.of_issue {t : State} (h : s.Invariant) (hcfg : t.cfg = s.cfg) (hin : t.inBuf = s.inBuf)
    (hout : t.outBuf = []) (hres : t.ResultsMatchStatus) : t.Invariant where
  legal := hcfg ▸ h.legal
  inBufCanonical := hin ▸ h.inBufCanonical
  inBufBelow := by rw [hcfg, hin]; exact h.inBufBelow
  outBufCanonical := by rw [hout]; exact .nil
  outBufBelow := by rw [hout]; exact List.forall_mem_nil _
  results := hres

theorem State.Invariant.putError (h : s.Invariant) (w : Word) (e : ErrorCode) :
    ((s.beginIssue w).putError e).Invariant :=
  h.of_issue rfl rfl rfl (resultsMatchStatus_putError w e s)

theorem State.Invariant.putHeader (h : s.Invariant) (w : Word) (b0 b1 b2 b3 : Byte) :
    ((s.beginIssue w).putHeader b0 b1 b2 b3 (declaredLength b2 b3)).Invariant :=
  h.of_issue rfl rfl rfl (resultsMatchStatus_putHeader w b0 b1 b2 b3 s)

theorem State.Invariant.putValue (h : s.Invariant) (w : Word) {v : Nat} (hv : v < 2 ^ s.cfg.valueWidth) :
    ((s.beginIssue w).putValue v).Invariant :=
  h.of_issue rfl rfl rfl (resultsMatchStatus_putValue w hv)

/-- A frame of a payload within MAX_PAYLOAD fits in OUT_BUF, since OUT_CAP is MAX_PAYLOAD + 6 (40_frame_build.md
R69). -/
theorem State.Invariant.putFrame (h : s.Invariant) (w : Word) (d : Direction) (g c : Byte) {p : List Byte}
    (hp : p.length ≤ s.cfg.maxPayload) : ((s.beginIssue w).putFrame (frameBytes d g c p)).Invariant where
  legal := h.legal
  inBufCanonical := h.inBufCanonical
  inBufBelow := h.inBufBelow
  outBufCanonical := Memory.canonical_writeFrom .nil 0 _
  outBufBelow := by
    refine Memory.below_writeFrom (List.forall_mem_nil _) ?_
    simp only [length_frameBytes, State.putFrame_cfg, State.beginIssue_cfg, Config.outCap]
    omega
  results := resultsMatchStatus_putFrame w d g c hp

/-! ## Every instruction, access and step keeps the invariant -/

/-- Every instruction keeps the invariant: its result is an error, a frame within its limit, a header, or a value
within its width. -/
theorem State.Invariant.exec (h : s.Invariant) {i : Instr} {t : State} (ht : exec i s = .next t) : t.Invariant := by
  rcases exec_next_cases ht with ⟨err, _, rfl⟩ | ⟨d, g, c, n, p, _, hlim, _, hmax, hp, _, rfl⟩ |
    ⟨_, b0, b1, b2, b3, _, rfl⟩ | ⟨_, n, p, _, hn, hp, rfl⟩
  · exact h.putError _ err
  · obtain ⟨hlen, _⟩ := (State.operand_eq_some_iff s n.toNat p).mp hp
    exact h.putFrame _ d g c (by omega)
  · exact h.putHeader _ b0 b1 b2 b3
  · obtain ⟨hlen, _⟩ := (State.operand_eq_some_iff s n.toNat p).mp hp
    have width : 2 ^ (8 * p.length) ≤ 2 ^ s.cfg.valueWidth :=
      Nat.pow_le_pow_right (by decide) (by rw [Config.valueWidth]; omega)
    refine h.putValue _ (lt_of_lt_of_le ?_ width)
    split
    · exact combineBE_lt p
    · exact decodeLE_lt p

/-- Every write of CW keeps the invariant. -/
theorem State.Invariant.issueWord (h : s.Invariant) {w : Word} {t : State} (ht : issueWord w s = .next t) :
    t.Invariant := by
  rcases issueWord_cases w s with ⟨i, _, he⟩ | ⟨_, _, he⟩
  · exact h.exec (he ▸ ht)
  · rw [he] at ht; cases ht
    exact h.putError w .illegalOp

/-- Every host access keeps the invariant. -/
theorem State.Invariant.hostAccess (h : s.Invariant) {a : HostAccess} {t : State} (ht : hostAccess a s = .next t) :
    t.Invariant := by
  rcases hostAccess_cases a s with ⟨_, _, he⟩ | ⟨_, he | ⟨n, he⟩⟩ | ⟨_, v, _, _, _, he⟩ | ⟨_, v, _, _, _, he⟩ |
    ⟨i, v, _, hi, _, he⟩ | ⟨_, he⟩ <;> rw [he] at ht
  · cases ht
  · cases ht
  · cases ht; exact h.deliver n
  · cases ht; exact h.storeInLen _
  · exact h.issueWord ht
  · cases ht; exact h.storeInByte hi _
  · cases ht; exact h.applyReset

/-- Every step keeps the invariant. -/
theorem State.Invariant.step (h : s.Invariant) {t : State} (ht : step s = .next t) : t.Invariant := by
  rcases step_cases s with ⟨_, he⟩ | ⟨_, _, he⟩ | ⟨a, rest, _, _, he⟩ <;> rw [he] at ht
  · cases ht
  · cases ht; exact h
  · exact (h.takeAccess rest).hostAccess ht

end

/-! ## The statements on the invariant and on the configuration -/

/-- Settles O3: each named update keeps the invariant, and a step is at most one of them. -/
theorem everyStepKeepsInvariant : Obligations.EveryStepKeepsInvariant :=
  fun _ _ h ht => h.step ht

/-- Settles O2: nothing is written at reset, and the default parameters are in their ranges. -/
theorem resetStateMeetsInvariant : Obligations.ResetStateMeetsInvariant :=
  ⟨fun _ h => invariant_resetWith h, invariant_resetWith (by decide)⟩

/-- Settles O6: the step checks the ranges first, and no access answers this refusal. -/
theorem illegalConfigurationIsRefused : Obligations.IllegalConfigurationIsRefused := by
  intro s
  rcases step_cases s with ⟨hl, he⟩ | ⟨hl, _, he⟩ | ⟨a, rest, hl, _, he⟩
  · exact iff_of_true hl he
  · exact iff_of_false (not_not_intro hl) (by simp [he])
  · exact iff_of_false (not_not_intro hl) (he ▸ hostAccess_ne_illegalConfig a _)

end Sys2Proof.Machine

/-! ## The host accesses one by one: which have a meaning (10_state.md R28), what a read reads (R29) -/

namespace Sys2Proof.Machine

/-- A step in a legal configuration is the host's next access, taken from its list. -/
theorem step_of_host {s : State} {a : HostAccess} {rest : List HostAccess} (hl : s.cfg.Legal)
    (hh : s.host = a :: rest) : step s = hostAccess a (s.takeAccess rest) := by
  simp only [step, advance, if_pos hl, hh]

/-- Only a legal configuration has a next state. -/
theorem legal_of_step_next {s t : State} (ht : step s = .next t) : s.cfg.Legal := by
  rcases step_cases s with ⟨_, he⟩ | ⟨hl, _, _⟩ | ⟨_, _, hl, _, _⟩
  · rw [he] at ht; cases ht
  · exact hl
  · exact hl

/-- A step that answers a next state with an access pending is that access. -/
theorem hostAccess_of_step_next {s t : State} {a : HostAccess} {rest : List HostAccess} (hh : s.host = a :: rest)
    (ht : step s = .next t) : hostAccess a (s.takeAccess rest) = .next t :=
  step_of_host (legal_of_step_next ht) hh ▸ ht

/-- The number of a register is read back as that register. -/
@[simp] theorem Register.ofNumber_number (r : Register) : Register.ofNumber r.number = some r := by
  cases r <;> rfl

/-- The unused register numbers are 0x0B and above. -/
theorem Register.ofNumber_eq_none_iff (number : Byte) : Register.ofNumber number = none ↔ 0x0B ≤ number.toNat := by
  unfold Register.ofNumber
  split
  case h_12 => simp only [imp_false, true_iff] at *; omega
  all_goals simp only [reduceCtorEq, false_iff]; omega

/-- A register has one number. -/
theorem Register.eq_number_of_ofNumber {number : Byte} {r : Register} (h : Register.ofNumber number = some r) :
    number = r.number := by
  apply BitVec.eq_of_toNat_eq
  unfold Register.ofNumber at h
  split at h <;> cases h <;> assumption

/-- A write of a 32-bit value to CW is an issue of that word (10_state.md R13). -/
theorem hostAccess_writeCw {v : Nat} (hv : v < 2 ^ 32) (s : State) :
    hostAccess (.writeReg 0x00#8 v) s = issueWord (BitVec.ofNat 32 v) s := if_pos hv

/-- A write of CW that answers a next state had a 32-bit value, and is an issue of that word. -/
theorem issueWord_of_writeCw_next {v : Nat} {s t : State} (h : hostAccess (.writeReg 0x00#8 v) s = .next t) :
    v < 2 ^ 32 ∧ issueWord (BitVec.ofNat 32 v) s = .next t := by
  by_cases hv : v < 2 ^ 32
  · exact ⟨hv, hostAccess_writeCw hv s ▸ h⟩
  · have he : hostAccess (.writeReg 0x00#8 v) s = .refused .valueTooWide := if_neg hv
    rw [he] at h; cases h

/-- A write of a 16-bit value to IN_LEN stores it (R14). -/
theorem hostAccess_writeInLen {v : Nat} (hv : v < 2 ^ 16) (s : State) :
    hostAccess (.writeReg 0x01#8 v) s = .next (s.storeInLen (BitVec.ofNat 16 v)) := if_pos hv

/-- A write of an 8-bit value to a byte of IN_BUF stores it (R15). -/
theorem hostAccess_writeIn {i v : Nat} {s : State} (hi : i < s.cfg.inCap) (hv : v < 2 ^ 8) :
    hostAccess (.writeIn i v) s = .next (s.storeInByte i (BitVec.ofNat 8 v)) := (if_pos hi).trans (if_pos hv)

/-- The contents a read asks for, as one unsigned number; `none` is `⊥`. -/
def HostAccess.readValue (s : State) : HostAccess → Option Nat
  | .readReg number => (Register.ofNumber number).bind s.readRegister
  | .readIn i => (s.inBuf.read i).map BitVec.toNat
  | .readOut i => (s.outBuf.read i).map BitVec.toNat
  | _ => none

/-- Taking an access from the list changes no contents. -/
@[simp] theorem HostAccess.readValue_takeAccess (a : HostAccess) (s : State) (rest : List HostAccess) :
    a.readValue (s.takeAccess rest) = a.readValue s := by
  cases a <;> rfl

/-- A read delivered to the host changes no contents. -/
@[simp] theorem HostAccess.readValue_deliver (a : HostAccess) (s : State) (v : Nat) :
    a.readValue (s.deliver v) = a.readValue s := by
  cases a <;> rfl

/-- A read with a meaning delivers the contents it asks for, or is the model fault. -/
theorem hostAccess_of_meaningful_read {a : HostAccess} {s : State} (ha : a.isRead = true)
    (hm : ¬ MeaninglessAccess s.cfg a) : hostAccess a s = finishRead (a.readValue s) s := by
  cases a with
  | readReg number =>
    obtain ⟨r, hr⟩ : ∃ r, Register.ofNumber number = some r :=
      Option.ne_none_iff_exists'.mp (mt (Register.ofNumber_eq_none_iff number).mp hm)
    simp only [hostAccess, readRegister, HostAccess.readValue, hr, Option.bind_some]
  | readIn i => exact if_pos (Nat.lt_of_not_le hm)
  | readOut i => exact if_pos (Nat.lt_of_not_le hm)
  | _ => cases ha

/-- An access with no meaning is refused. -/
theorem exists_refused_of_meaningless {a : HostAccess} {s : State} (h : MeaninglessAccess s.cfg a) :
    ∃ r, hostAccess a s = .refused r := by
  cases a with
  | writeReg number v =>
    rcases writeRegister_cases number v s with ⟨r, _, hr⟩ | ⟨hreg, hv, _⟩ | ⟨hreg, hv, _⟩
    · exact ⟨r, hr⟩
    all_goals
      rw [Register.eq_number_of_ofNumber hreg] at h
      simp [MeaninglessAccess, Register.number] at h
      omega
  | readReg number =>
    exact ⟨.unusedRegister, by simp only [hostAccess, readRegister, (Register.ofNumber_eq_none_iff number).mpr h]⟩
  | writeIn i v =>
    rcases writeInByte_cases i v s with ⟨r, _, hr⟩ | ⟨hi, hv, _⟩
    · exact ⟨r, hr⟩
    · simp only [MeaninglessAccess] at h
      omega
  | readIn i => exact ⟨.inIndexOutOfRange, if_neg (Nat.not_lt.mpr h)⟩
  | writeOut i v => exact ⟨.readOnlyWrite, rfl⟩
  | readOut i => exact ⟨.outIndexOutOfRange, if_neg (Nat.not_lt.mpr h)⟩
  | reset => cases h

/-- The end of a read refuses nothing. -/
theorem finishRead_ne_refused (v : Option Nat) (s : State) (r : Refusal) : finishRead v s ≠ .refused r := by
  rcases finishRead_cases v s with ⟨_, _, h⟩ | ⟨_, h⟩ <;> simp [h]

/-- An access with a meaning is not refused. -/
theorem hostAccess_ne_refused_of_meaningful {a : HostAccess} {s : State} (h : ¬ MeaninglessAccess s.cfg a)
    (r : Refusal) : hostAccess a s ≠ .refused r := by
  have read (ha : a.isRead = true) : hostAccess a s ≠ .refused r :=
    hostAccess_of_meaningful_read ha h ▸ finishRead_ne_refused _ s r
  cases a with
  | readReg number => exact read rfl
  | readIn i => exact read rfl
  | readOut i => exact read rfl
  | writeReg number v =>
    simp only [MeaninglessAccess, not_or, not_and] at h
    obtain ⟨hnum, hcw, hlen⟩ := h
    obtain h0 | h1 : number.toNat = 0 ∨ number.toNat = 1 := by omega
    · obtain rfl : number = 0x00#8 := BitVec.eq_of_toNat_eq h0
      rw [hostAccess_writeCw (Nat.lt_of_not_le (hcw h0))]
      exact issueWord_ne_refused _ s r
    · obtain rfl : number = 0x01#8 := BitVec.eq_of_toNat_eq h1
      simp [hostAccess_writeInLen (Nat.lt_of_not_le (hlen h1))]
  | writeIn i v =>
    simp only [MeaninglessAccess, not_or, Nat.not_le] at h
    simp [hostAccess_writeIn h.1 h.2]
  | writeOut i v => exact absurd trivial h
  | reset => simp [hostAccess]

/-! ## What an issue leaves unchanged (10_state.md R27) and what it leaves valid (R17) -/

/-- The encoder gives a named BUILD.W row the word of its BUILD (40_frame_build.md R71). -/
@[simp] theorem encode_ofBuildW (g c : Byte) : encode (Instr.ofBuildW g c) = commandWord 0 g c := by
  unfold Instr.ofBuildW
  split
  · next h => rw [h.1, h.2]; rfl
  · rfl

/-- The encoder gives a named BUILD.R row the word of its BUILD (R72 to R74). -/
@[simp] theorem encode_ofBuildR (g c : Byte) : encode (Instr.ofBuildR g c) = commandWord 1 g c := by
  unfold Instr.ofBuildR
  split
  · next h => rw [h.1, h.2]; rfl
  · split
    · next h => rw [h.1, h.2]; rfl
    · split
      · next h => rw [h.1, h.2]; rfl
      · rfl

/-- A legal word is the command word of the instruction it decodes to: no bit of it is lost. -/
theorem encode_of_decode_ok {w : Word} {i : Instr} (h : decode w = .ok i) : encode i = w := by
  rcases decode_ok_cases h with ⟨hop, hlo, hhi, rfl⟩ | ⟨hop, hlo, hhi, rfl⟩ | ⟨hop, hab, rfl⟩ | ⟨hop, hab, rfl⟩ |
    ⟨hop, hab, rfl⟩
  · rw [encode_ofBuildW, ← hop, commandWord_of_fields hlo hhi]
  · rw [encode_ofBuildR, ← hop, commandWord_of_fields hlo hhi]
  all_goals
    rw [← commandWord_of_op hab, hop]
    rfl

/-- What no issue of the word `w` from `s` to `t` writes: the whole of IN_BUF as it is held, and all of `Issued`. -/
def IssueKeeps (w : Word) (s t : State) : Prop := t.inBuf = s.inBuf ∧ Issued w s t

/-- An instruction changes nothing but CW, STATUS and the results. -/
theorem issueKeeps_of_exec {i : Instr} {s t : State} (h : exec i s = .next t) : IssueKeeps (encode i) s t := by
  rcases exec_next_cases h with ⟨_, _, rfl⟩ | ⟨_, _, _, _, _, _, _, _, _, _, _, rfl⟩ | ⟨_, _, _, _, _, _, rfl⟩ |
    ⟨_, _, _, _, _, _, rfl⟩
  all_goals exact ⟨rfl, rfl, rfl, fun _ => rfl, rfl, rfl, rfl⟩

/-- A write of CW changes nothing but CW, STATUS and the results, and CW holds the word written. -/
theorem issueKeeps_of_issueWord {w : Word} {s t : State} (h : issueWord w s = .next t) : IssueKeeps w s t := by
  rcases issueWord_cases w s with ⟨i, hi, he⟩ | ⟨_, _, he⟩
  · exact encode_of_decode_ok hi ▸ issueKeeps_of_exec (he ▸ h)
  · rw [he] at h; cases h
    exact ⟨rfl, rfl, rfl, fun _ => rfl, rfl, rfl, rfl⟩

/-- After an instruction the valid results are those of STATUS.KIND, whatever the state before it held. -/
theorem resultsMatchStatus_of_exec {i : Instr} {s t : State} (h : exec i s = .next t) : t.ResultsMatchStatus := by
  rcases exec_next_cases h with ⟨err, _, rfl⟩ | ⟨d, g, c, n, p, _, hlim, _, hmax, hp, _, rfl⟩ |
    ⟨_, b0, b1, b2, b3, _, rfl⟩ | ⟨_, n, p, _, hn, hp, rfl⟩
  · exact resultsMatchStatus_putError _ err s
  · obtain ⟨hlen, _⟩ := (State.operand_eq_some_iff s n.toNat p).mp hp
    exact resultsMatchStatus_putFrame _ d g c (by omega)
  · exact resultsMatchStatus_putHeader _ b0 b1 b2 b3 s
  · obtain ⟨hlen, _⟩ := (State.operand_eq_some_iff s n.toNat p).mp hp
    have width : 2 ^ (8 * p.length) ≤ 2 ^ s.cfg.valueWidth :=
      Nat.pow_le_pow_right (by decide) (by rw [Config.valueWidth]; omega)
    refine resultsMatchStatus_putValue _ (lt_of_lt_of_le ?_ width)
    split
    · exact combineBE_lt p
    · exact decodeLE_lt p

/-- After a write of CW the valid results are those of STATUS.KIND. -/
theorem resultsMatchStatus_of_issueWord {w : Word} {s t : State} (h : issueWord w s = .next t) :
    t.ResultsMatchStatus := by
  rcases issueWord_cases w s with ⟨i, _, he⟩ | ⟨_, _, he⟩
  · exact resultsMatchStatus_of_exec (he ▸ h)
  · rw [he] at h; cases h
    exact resultsMatchStatus_putError w .illegalOp s

/-- No access changes the parameters or the accesses still to come. -/
theorem hostAccess_keeps_cfg_host {a : HostAccess} {s t : State} (ht : hostAccess a s = .next t) :
    t.cfg = s.cfg ∧ t.host = s.host := by
  rcases hostAccess_cases a s with ⟨_, _, he⟩ | ⟨_, he | ⟨_, he⟩⟩ | ⟨_, _, _, _, _, he⟩ | ⟨_, _, _, _, _, he⟩ |
    ⟨_, _, _, _, _, he⟩ | ⟨_, he⟩ <;> rw [he] at ht
  case inr.inr.inr.inl =>
    obtain ⟨_, _, _, _, hcfg, hhost, _⟩ := issueKeeps_of_issueWord ht
    exact ⟨hcfg, hhost⟩
  all_goals cases ht
  all_goals exact ⟨rfl, rfl⟩

/-! ## Where an instruction is the model fault (10_state.md R26) -/

/-- Reading operand bytes is the model fault exactly where one of them is `⊥`. -/
theorem withOperand_eq_fault_iff (n : Nat) (finish : List Byte → State → State) (s : State) :
    withOperand n finish s = .fault .readUnwritten ↔ ∃ k, k < n ∧ s.inBuf.read k = none := by
  rw [← State.operand_eq_none_iff]
  rcases withOperand_cases n finish s with ⟨bs, hb, h⟩ | ⟨hb, h⟩ <;> simp [hb, h]

/-- An operation is the model fault exactly where a byte it reads is `⊥`; a PARSE of fewer than 4 bytes reads none. -/
theorem performOf_eq_fault_iff (i : Instr) (n : Nat) (s : State) :
    performOf i n s = .fault .readUnwritten ↔
      (i = .parse → 4 ≤ n) ∧ ∃ k, k < bytesRead n i ∧ s.inBuf.read k = none := by
  cases i with
  | parse =>
    rcases parseHeader_cases n s with ⟨hn, h⟩ | ⟨hn, h⟩ <;> rw [performOf, h]
    · simp only [raiseError, reduceCtorEq, false_iff, true_imp_iff]
      omega
    · rw [withOperand_eq_fault_iff]
      simp only [hn, bytesRead, imp_self, true_and]
  | _ =>
    refine (withOperand_eq_fault_iff n _ s).trans ?_
    simp only [reduceCtorEq, false_imp_iff, true_and, bytesRead]

/-- An instruction is the model fault exactly where IN_LEN, or a byte it reads once its length is admitted, is `⊥`. -/
theorem exec_eq_fault_iff (i : Instr) (s : State) :
    exec i s = .fault .readUnwritten ↔
      s.inLen = none ∨ ∃ n : Half, s.inLen = some n ∧ n.toNat ≤ s.cfg.inCap ∧ n.toNat ≤ operandLimit s.cfg i ∧
        (i = .parse → 4 ≤ n.toNat) ∧ ∃ k, k < bytesRead n.toNat i ∧ s.inBuf.read k = none := by
  rcases exec_cases i s with ⟨hn, he⟩ | ⟨n, hn, hlong, he⟩ | ⟨n, hn, hc, hl, he⟩ <;> rw [he]
  · exact iff_of_true rfl (.inl hn)
  · simp only [raiseError, reduceCtorEq, hn, Option.some.injEq, false_or, false_iff]
    rintro ⟨_, rfl, hc, hl, _⟩
    omega
  · rw [performOf_eq_fault_iff]
    simp [hn, hc, hl]

/-! ## What the outcome of an instruction depends on (10_state.md R15, R25; 60_exceptions.md R96) -/

/-- `t` with IN_BUF and the host's side of `s'`. -/
def State.withInputsOf (s' t : State) : State :=
  { t with inBuf := s'.inBuf, host := s'.host, hostSeen := s'.hostSeen }

/-- The outcome `r'` is `r`, but for IN_BUF and the host's side, which are those of `s'`. -/
def SameOutcome (s' : State) (r r' : Result) : Prop :=
  (∀ t, r = .next t → r' = .next (s'.withInputsOf t)) ∧
    (r = .fault .readUnwritten → r' = .fault .readUnwritten)

/-- The model fault is one outcome in both states. -/
theorem sameOutcome_fault (s' : State) : SameOutcome s' (.fault .readUnwritten) (.fault .readUnwritten) :=
  ⟨fun _ h => (by cases h), id⟩

/-- Two next states that differ in no more than IN_BUF and the host's side are one outcome. -/
theorem sameOutcome_next {s' t t' : State} (h : t' = s'.withInputsOf t) : SameOutcome s' (.next t) (.next t') :=
  ⟨fun u hu => by cases hu; rw [h], fun hu => by cases hu⟩

/-- Buffers that agree on the bytes of an operand give the same operand. -/
theorem State.operand_congr {s s' : State} {n : Nat} (h : ∀ k, k < n → s'.inBuf.read k = s.inBuf.read k) :
    s'.operand n = s.operand n := by
  cases hs : s.operand n with
  | none =>
    obtain ⟨k, hk, hnone⟩ := (s.operand_eq_none_iff n).mp hs
    exact (s'.operand_eq_none_iff n).mpr ⟨k, hk, (h k hk).trans hnone⟩
  | some bs =>
    obtain ⟨hlen, hread⟩ := (s.operand_eq_some_iff n bs).mp hs
    exact (s'.operand_eq_some_iff n bs).mpr ⟨hlen, fun k hk => (h k (hlen ▸ hk)).trans (hread k hk)⟩

/-- Reading the same operand and finishing alike is one outcome. -/
theorem sameOutcome_withOperand {s' u u' : State} {n : Nat} {finish : List Byte → State → State}
    (hop : u'.operand n = u.operand n)
    (hfin : ∀ bs, bs.length = n → finish bs u' = s'.withInputsOf (finish bs u)) :
    SameOutcome s' (withOperand n finish u) (withOperand n finish u') := by
  unfold withOperand
  rw [hop]
  cases h : u.operand n with
  | none => exact sameOutcome_fault s'
  | some bs => exact sameOutcome_next (hfin bs ((u.operand_eq_some_iff n bs).mp h).1)

section
variable {s s' : State}

/-- Two issues of one word with the same parameters and IN_LEN start alike but for STATUS, IN_BUF and the host's side. -/
theorem State.beginIssue_eq_of_operands (hcfg : s'.cfg = s.cfg) (hlen : s'.inLen = s.inLen) (w : Word) :
    s'.beginIssue w = { s'.withInputsOf (s.beginIssue w) with status := s'.status } := by
  simp only [State.beginIssue, State.invalidate, State.withInputsOf, hcfg, hlen]

/-- An operation on the same operand has one outcome: each result it writes, STATUS too, is written whole. -/
theorem sameOutcome_performOf (hcfg : s'.cfg = s.cfg) (hlen : s'.inLen = s.inLen) (w : Word) (i : Instr) {n : Nat}
    (hread : ∀ k, k < bytesRead n i → s'.inBuf.read k = s.inBuf.read k) :
    SameOutcome s' (performOf i n (s.beginIssue w)) (performOf i n (s'.beginIssue w)) := by
  have hop : (s'.beginIssue w).operand (bytesRead n i) = (s.beginIssue w).operand (bytesRead n i) :=
    State.operand_congr hread
  have begun := State.beginIssue_eq_of_operands hcfg hlen w
  cases i with
  | parse =>
    by_cases hn : n < 4
    · simp only [performOf, parseHeader, if_pos hn, raiseError]
      exact sameOutcome_next (by rw [begun]; rfl)
    · simp only [performOf, parseHeader, if_neg hn]
      refine sameOutcome_withOperand hop fun bs hbs => ?_
      match bs, hbs with
      | [_, _, _, _], _ => rw [begun]; rfl
  | _ => exact sameOutcome_withOperand hop fun bs _ => by rw [begun]; rfl

/-- An instruction on the same parameters, IN_LEN and operand bytes has one outcome. -/
theorem sameOutcome_exec (hcfg : s'.cfg = s.cfg) (hlen : s'.inLen = s.inLen) (i : Instr)
    (hread : ∀ n : Half, s.inLen = some n → ∀ k, k < bytesRead n.toNat i → s'.inBuf.read k = s.inBuf.read k) :
    SameOutcome s' (exec i s) (exec i s') := by
  rw [exec_eq_issue i s']
  rcases exec_cases i s with ⟨hn, he⟩ | ⟨n, hn, hlong, he⟩ | ⟨n, hn, hc, hl, he⟩ <;> rw [he]
  · rw [issue_of_unwritten (hlen.trans hn)]
    exact sameOutcome_fault s'
  · rw [issue_of_tooLong (hlen.trans hn) (by rw [hcfg]; exact hlong)]
    exact sameOutcome_next (by rw [State.beginIssue_eq_of_operands hcfg hlen]; rfl)
  · rw [issue_of_admitted (hlen.trans hn) (by rw [hcfg]; exact hc) (by rw [hcfg]; exact hl)]
    exact sameOutcome_performOf hcfg hlen _ i (hread n hn)

end

/-! ## What a host read answers -/

/-- A read with a meaning appends the contents it asks for to what the host has read; where they are `⊥` it is the model
fault. -/
theorem step_of_meaningful_read {s : State} {a : HostAccess} {rest : List HostAccess} (hl : s.cfg.Legal)
    (hh : s.host = a :: rest) (ha : a.isRead = true) (hm : ¬ MeaninglessAccess s.cfg a) :
    (∀ x, a.readValue s = some x → step s = .next { s with host := rest, hostSeen := x :: s.hostSeen }) ∧
    (a.readValue s = none → step s = .fault .readUnwritten) := by
  have hs : step s = finishRead (a.readValue s) (s.takeAccess rest) := by
    rw [step_of_host hl hh, hostAccess_of_meaningful_read (s := s.takeAccess rest) ha hm,
      HostAccess.readValue_takeAccess]
  rw [hs]
  exact ⟨fun x hx => by rw [hx]; rfl, fun hn => by rw [hn]; rfl⟩

/-- The same of a read that asks for a byte. -/
theorem step_of_meaningful_byte_read {s : State} {a : HostAccess} {rest : List HostAccess} {byte : Option Byte}
    (hl : s.cfg.Legal) (hh : s.host = a :: rest) (ha : a.isRead = true) (hm : ¬ MeaninglessAccess s.cfg a)
    (hbyte : a.readValue s = byte.map BitVec.toNat) :
    (∀ b, byte = some b → step s = .next { s with host := rest, hostSeen := b.toNat :: s.hostSeen }) ∧
    (byte = none → step s = .fault .readUnwritten) := by
  obtain ⟨hsome, hnone⟩ := step_of_meaningful_read hl hh ha hm
  exact ⟨fun b hb => hsome b.toNat (by rw [hbyte, hb]; rfl), fun hb => hnone (by rw [hbyte, hb]; rfl)⟩

/-- A read that answers a next state has a meaning and delivers the contents it asks for. -/
theorem hostAccess_read_next {a : HostAccess} {s t : State} (ha : a.isRead = true) (ht : hostAccess a s = .next t) :
    ¬ MeaninglessAccess s.cfg a ∧ ∃ x, a.readValue s = some x ∧ t = s.deliver x := by
  have hm : ¬ MeaninglessAccess s.cfg a := fun hm => by
    obtain ⟨r, hr⟩ := exists_refused_of_meaningless hm
    rw [hr] at ht; cases ht
  rw [hostAccess_of_meaningful_read ha hm] at ht
  rcases finishRead_cases (a.readValue s) s with ⟨x, hx, he⟩ | ⟨_, he⟩ <;> rw [he] at ht <;> cases ht
  exact ⟨hm, x, hx, rfl⟩

/-- The registers in the order of their numbers (10_state.md R12). -/
def Register.all : List Register :=
  [.cw, .inLen, .status, .outLen, .reportId, .declLen, .hdrB0, .hdrB1, .hdrB2, .hdrB3, .value]

/-- No register number is unused. -/
theorem not_meaningless_readReg_number (cfg : Config) (r : Register) :
    ¬ MeaninglessAccess cfg (.readReg r.number) := by
  intro h
  simpa only [Register.ofNumber_number, reduceCtorEq] using (Register.ofNumber_eq_none_iff r.number).mpr h

/-! ## The word a row of the table is read from (20_memory.md R36) -/

/-- A row of the table is read from a 32-bit word that decodes to its instruction. -/
theorem decode_of_decodeTableWord {nbits w : Nat} {i : Instr} (h : decodeTableWord nbits w = some i) :
    w % 2 ^ nbits < 2 ^ 32 ∧ decode (BitVec.ofNat 32 (w % 2 ^ nbits)) = .ok i := by
  simp only [decodeTableWord] at h
  split at h
  · next hv =>
    split at h
    · next j hj => cases h; exact ⟨hv, hj⟩
    · cases h
  · cases h

/-! ## The statements on the state and its accesses -/

/-- Settles O1: `State.resetWith` is the table of reset values. -/
theorem resetStateHoldsSpecValues : Obligations.ResetStateHoldsSpecValues := by
  refine ⟨?_, Config.standard, by decide, rfl⟩
  rintro cfg s rfl
  exact ⟨rfl, rfl, rfl, fun _ => rfl, rfl, rfl, fun _ => rfl, rfl, rfl, rfl, rfl, rfl, rfl⟩

/-- Settles O4: the step is the host's access, the access an issue, the issue the decoded instruction. -/
theorem stepRunsDecodedInstruction : Obligations.StepRunsDecodedInstruction := by
  intro s rest v i hl hh hv hi
  rw [step_of_host hl hh, hostAccess_writeCw hv, issueWord, hi]
  rfl

/-- Settles O5: the placed word is a write of CW, so O4 applies to it. -/
theorem placedWordRunsNext : Obligations.PlacedWordRunsNext := by
  intro s nbits w i hl hi
  obtain ⟨hv, hd⟩ := decode_of_decodeTableWord hi
  exact stepRunsDecodedInstruction (s.withFetchWord nbits w) s.host _ i hl rfl hv hd

/-- Settles O9: the idle step has nothing to take, and no access writes the parameters or the list. -/
theorem everyStepTakesOneAccess : Obligations.EveryStepTakesOneAccess := by
  intro s t ht
  rcases step_cases s with ⟨_, he⟩ | ⟨_, hh, he⟩ | ⟨a, rest, _, hh, he⟩ <;> rw [he] at ht
  · cases ht
  · cases ht
    exact ⟨rfl, by rw [hh]; rfl⟩
  · obtain ⟨hcfg, hhost⟩ := hostAccess_keeps_cfg_host ht
    exact ⟨hcfg, by rw [hhost, hh]; rfl⟩

/-- Settles O36, by the three outcomes of an issue and the bytes its operation reads. -/
theorem instructionFaultsExactlyOnUnwrittenOperand : Obligations.InstructionFaultsExactlyOnUnwrittenOperand :=
  fun i s => ⟨exec_ne_refused i s, exec_eq_fault_iff i s⟩

/-- Settles O37: every result an issue writes is beside the operands. -/
theorem operandsPersistAcrossIssues : Obligations.OperandsPersistAcrossIssues := by
  intro s t rest v hh ht
  obtain ⟨hv, hw⟩ := issueWord_of_writeCw_next (hostAccess_of_step_next hh ht)
  obtain ⟨hin, hcw, hlen, hread, hcfg, hhost, hseen⟩ := issueKeeps_of_issueWord hw
  exact ⟨hlen, hin, hread, hv, hcw, hcfg, hhost, hseen⟩

/-- Settles O38: an issue starts from invalidated results, whatever state it starts from. -/
theorem issueLeavesOnlyItsOwnResults : Obligations.IssueLeavesOnlyItsOwnResults := by
  intro s t rest v hh ht
  obtain ⟨_, hw⟩ := issueWord_of_writeCw_next (hostAccess_of_step_next hh ht)
  exact resultsMatchStatus_of_issueWord hw

/-- Settles O39: the checks, the operand and the results are the same in both states. -/
theorem outcomeDependsOnOperandsOnly : Obligations.OutcomeDependsOnOperandsOnly :=
  fun i _ _ hcfg hlen hread => sameOutcome_exec hcfg hlen i hread

/-- Settles O40: the list is each register with its number and contents. -/
theorem registerReadsReturnTheirContents : Obligations.RegisterReadsReturnTheirContents := by
  intro s rest hl entry hmem hh
  obtain ⟨r, _, rfl⟩ : ∃ r ∈ Register.all, (r.number, s.readRegister r) = entry := List.mem_map.mp hmem
  have hr := step_of_meaningful_read hl hh rfl (not_meaningless_readReg_number s.cfg r)
  simpa only [HostAccess.readValue, Register.ofNumber_number, Option.bind_some] using hr

/-- Settles O41: an index below the capacity has a meaning, and the contents are the byte. -/
theorem bufferReadsReturnTheirBytes : Obligations.BufferReadsReturnTheirBytes :=
  fun _ _ _ hl =>
    ⟨fun hh hi => step_of_meaningful_byte_read hl hh rfl (Nat.not_le.mpr hi) rfl,
      fun hh hi => step_of_meaningful_byte_read hl hh rfl (Nat.not_le.mpr hi) rfl⟩

/-- Settles O42: a read changes no contents, so the same read asks for the same value. -/
theorem readsAreIdempotent : Obligations.ReadsAreIdempotent := by
  intro s t a rest ha hh ht
  obtain ⟨hm, x, hx, rfl⟩ := hostAccess_read_next ha (hostAccess_of_step_next hh ht)
  have hx' : a.readValue ((s.takeAccess (a :: rest)).deliver x) = some x := by rwa [HostAccess.readValue_deliver]
  have hl : s.cfg.Legal := legal_of_step_next ht
  obtain ⟨hagain, _⟩ := step_of_meaningful_read (s := (s.takeAccess (a :: rest)).deliver x) hl rfl ha hm
  exact ⟨x, rfl, hagain x hx'⟩

/-- Settles O43, by what a buffer reads after a write. -/
theorem operandWritesOnlyStore : Obligations.OperandWritesOnlyStore := by
  intro s rest i v hl
  constructor
  · intro hh hv
    rw [step_of_host hl hh, hostAccess_writeInLen hv]
    rfl
  · intro hh hi hv
    refine ⟨s.inBuf.write i (BitVec.ofNat 8 v), ?_, Memory.read_write_same _ _ _,
      fun j hj => Memory.read_write_of_ne _ _ hj⟩
    rw [step_of_host hl hh, hostAccess_writeIn (s := s.takeAccess rest) hi hv]
    rfl

/-- Settles O45, by the kinds of access. -/
theorem exactlyMeaninglessAccessesAreRefused : Obligations.ExactlyMeaninglessAccessesAreRefused := by
  intro s a rest hl hh
  rw [step_of_host hl hh]
  refine ⟨fun ⟨r, hr⟩ => ?_, exists_refused_of_meaningless (s := s.takeAccess rest)⟩
  by_contra hm
  exact hostAccess_ne_refused_of_meaningful (s := s.takeAccess rest) hm r hr

/-- Settles O46: a read and an operand write leave CW, STATUS and the results; the other accesses are excluded. -/
theorem onlyIssuesAndResetWriteResults : Obligations.OnlyIssuesAndResetWriteResults := by
  intro s t a rest hh ht hcw hreset
  have hacc := hostAccess_of_step_next hh ht
  rcases hostAccess_cases a (s.takeAccess rest) with ⟨_, _, he⟩ | ⟨_, he | ⟨_, he⟩⟩ | ⟨_, _, _, _, _, he⟩ |
    ⟨number, v, ha, hreg, _, _⟩ | ⟨_, _, _, _, _, he⟩ | ⟨ha, _⟩
  case inr.inr.inr.inl =>
    obtain rfl := Register.eq_number_of_ofNumber hreg
    exact absurd ha (hcw v)
  case inr.inr.inr.inr.inr => exact absurd ha hreset
  all_goals rw [he] at hacc; cases hacc
  all_goals exact ⟨rfl, rfl, rfl, rfl, rfl, rfl, rfl, rfl, rfl, rfl, fun _ => rfl⟩

end Sys2Proof.Machine

/-! ## An assembled line is its operation on exactly its bytes (30_encoding.md R57) -/

namespace Sys2Proof.Machine

/-- The word of a BUILD.W decodes to its row's name. -/
theorem decode_commandWord_buildW (g c : Byte) : decode (commandWord 0 g c) = .ok (Instr.ofBuildW g c) := by
  simp [decode]

/-- The word of a BUILD.R decodes to its row's name. -/
theorem decode_commandWord_buildR (g c : Byte) : decode (commandWord 1 g c) = .ok (Instr.ofBuildR g c) := by
  simp [decode]

/-- The word of any instruction is legal, and the decoder gives it the one name of that word. -/
theorem decode_encode (i : Instr) : decode (encode i) = .ok i.canonical := by
  cases i with
  | buildW g c => exact decode_commandWord_buildW g c
  | buildR g c => exact decode_commandWord_buildR g c
  | scan => exact decode_commandWord_buildW 0x02 0x18
  | getcfg => exact decode_commandWord_buildR 0x02 0x23
  | fsize => exact decode_commandWord_buildR 0x00 0x2D
  | fchunk => exact decode_commandWord_buildR 0x00 0x2E
  | parse => rfl
  | combbe => rfl
  | decle => rfl

/-- `s` with the operands of a line loaded: `bytes` in IN_BUF from index 0 on, their number in IN_LEN, and the accesses
`rest` still to come. -/
def State.withLineOperands (bytes : List Byte) (rest : List HostAccess) (s : State) : State :=
  { s with host := rest, inLen := some (BitVec.ofNat 16 bytes.length), inBuf := s.inBuf.writeFrom 0 bytes }

/-- The bytes of the line stand in IN_BUF from index 0 on. -/
theorem State.inputIs_withLineOperands (bytes : List Byte) (rest : List HostAccess) (s : State) :
    (s.withLineOperands bytes rest).InputIs bytes := by
  intro k hk
  rw [State.withLineOperands, Memory.read_writeFrom, if_pos (by omega), Nat.sub_zero, List.getElem?_eq_getElem hk]

/-- Above the bytes of the line IN_BUF holds what it held. -/
theorem State.read_withLineOperands_of_le {bytes : List Byte} {k : Nat} (hk : bytes.length ≤ k)
    (rest : List HostAccess) (s : State) : (s.withLineOperands bytes rest).inBuf.read k = s.inBuf.read k := by
  rw [State.withLineOperands, Memory.read_writeFrom, if_neg (by omega)]

section
variable {s : State} {rest : List HostAccess}

/-- A run goes on from the next state of its first step. -/
theorem run_succ_of_next {t : State} (h : step s = .next t) (k : Nat) : run (k + 1) s = run k t := by
  rw [run, h]

/-- A run of one step is that step, whatever it answers. -/
theorem run_one (s : State) : run 1 s = step s := by
  rw [run]
  cases step s <;> rfl

/-- A pending write of a 16-bit value to IN_LEN stores it. -/
theorem step_of_writeInLen {n : Nat} (hl : s.cfg.Legal) (hh : s.host = .writeReg Register.inLen.number n :: rest)
    (hn : n < 2 ^ 16) : step s = .next ((s.takeAccess rest).storeInLen (BitVec.ofNat 16 n)) :=
  (step_of_host hl hh).trans (hostAccess_writeInLen hn _)

/-- A pending write of a byte of IN_BUF stores it. -/
theorem step_of_writeIn {i : Nat} {b : Byte} (hl : s.cfg.Legal) (hh : s.host = .writeIn i b.toNat :: rest)
    (hi : i < s.cfg.inCap) : step s = .next ((s.takeAccess rest).storeInByte i b) := by
  rw [step_of_host hl hh, hostAccess_writeIn (s := s.takeAccess rest) hi b.isLt, BitVec.ofNat_toNat, BitVec.setWidth_eq]

/-- A pending write of the word of an instruction runs that instruction, as the decoder names it. -/
theorem step_of_writeCw_encode {i : Instr} (hl : s.cfg.Legal)
    (hh : s.host = .writeReg Register.cw.number (encode i).toNat :: rest) :
    step s = exec i.canonical (s.takeAccess rest) := by
  refine stepRunsDecodedInstruction s rest (encode i).toNat i.canonical hl hh (encode i).isLt ?_
  rw [BitVec.ofNat_toNat, BitVec.setWidth_eq]
  exact decode_encode i

/-- The writes of a run of bytes that fits in IN_BUF, one step each, leave the run in the buffer and nothing else
changed. -/
theorem run_writeInBytes {bytes : List Byte} {i : Nat} (hl : s.cfg.Legal) (hi : i + bytes.length ≤ s.cfg.inCap)
    (hh : s.host = writeInBytes i bytes ++ rest) (k : Nat) :
    run (bytes.length + k) s = run k { s with host := rest, inBuf := s.inBuf.writeFrom i bytes } := by
  induction bytes generalizing i s with
  | nil =>
    obtain rfl : s.host = rest := hh
    rw [List.length_nil, Nat.zero_add]
    rfl
  | cons b bs ih =>
    rw [List.length_cons] at hi ⊢
    have first : step s = .next ((s.takeAccess (writeInBytes (i + 1) bs ++ rest)).storeInByte i b) :=
      step_of_writeIn hl hh (by omega)
    have hrest : i + 1 + bs.length ≤ s.cfg.inCap := by omega
    rw [Nat.add_right_comm, run_succ_of_next first]
    exact ih (s := (s.takeAccess _).storeInByte i b) hl hrest rfl

/-- The last two accesses of a line store IN_LEN and issue its instruction, as the decoder names it. -/
theorem run_writeInLen_issue {i : Instr} {n : Nat} (hl : s.cfg.Legal)
    (hh : s.host = .writeReg Register.inLen.number n :: .writeReg Register.cw.number (encode i).toNat :: rest)
    (hn : n < 2 ^ 16) :
    run 2 s = exec i.canonical { s with host := rest, inLen := some (BitVec.ofNat 16 n) } := by
  rw [run_succ_of_next (step_of_writeInLen hl hh hn), run_one]
  exact step_of_writeCw_encode (s := (s.takeAccess _).storeInLen _) hl rfl

/-- The accesses of a line run its instruction, as the decoder names it, on the operands loaded. -/
theorem run_issueSequence {i : Instr} {bytes : List Byte} (hl : s.cfg.Legal) (hfit : bytes.length ≤ s.cfg.inCap)
    (hh : s.host = issueSequence i bytes ++ rest) :
    run (bytes.length + 2) s = exec i.canonical (s.withLineOperands bytes rest) := by
  rw [issueSequence, List.append_assoc] at hh
  rw [run_writeInBytes hl (by omega) hh]
  exact run_writeInLen_issue hl rfl (by obtain ⟨_, _, _, hcap, _⟩ := hl; omega)

end

/-- Settles O47: the state loaded with the line's operands is the one the instruction runs on. -/
theorem assembledLineRunsItsOperation : Obligations.AssembledLineRunsItsOperation :=
  fun _ bytes s rest hl hfit hh =>
    ⟨s.withLineOperands bytes rest, rfl, s.inputIs_withLineOperands bytes rest,
      fun _ hk => s.read_withLineOperands_of_le hk rest, run_issueSequence hl hfit hh⟩

end Sys2Proof.Machine

/-! ## The names of an instruction, and the fields of a word as parts of its number (30_encoding.md R46, R47) -/

namespace Sys2Proof

/-- BUILD.W is well formed exactly where its word is not SCAN's. -/
theorem wellFormed_buildW_iff (g c : Byte) : (Instr.buildW g c).wellFormed = true ↔ ¬ (g = 0x02#8 ∧ c = 0x18#8) := by
  simp [Instr.wellFormed, imp_iff_not_or]

/-- BUILD.R is well formed exactly where its word is none of GETCFG's, FSIZE's and FCHUNK's. -/
theorem wellFormed_buildR_iff (g c : Byte) : (Instr.buildR g c).wellFormed = true ↔
    ¬ (g = 0x02#8 ∧ c = 0x23#8) ∧ ¬ (g = 0x00#8 ∧ c = 0x2D#8) ∧ ¬ (g = 0x00#8 ∧ c = 0x2E#8) := by
  simp [Instr.wellFormed, imp_iff_not_or, and_assoc]

/-- The row name of a BUILD.W is well formed: it is SCAN exactly where BUILD.W itself is not. -/
theorem wellFormed_ofBuildW (g c : Byte) : (Instr.ofBuildW g c).wellFormed = true := by
  unfold Instr.ofBuildW
  split
  · rfl
  · next hscan => exact (wellFormed_buildW_iff g c).mpr hscan

/-- The row name of a BUILD.R is well formed: it is a pseudo-operation exactly where BUILD.R itself is not. -/
theorem wellFormed_ofBuildR (g c : Byte) : (Instr.ofBuildR g c).wellFormed = true := by
  unfold Instr.ofBuildR
  split
  · rfl
  · next hgetcfg =>
    split
    · rfl
    · next hfsize =>
      split
      · rfl
      · next hfchunk => exact (wellFormed_buildR_iff g c).mpr ⟨hgetcfg, hfsize, hfchunk⟩

/-- The name the decoder gives is well formed. -/
theorem wellFormed_canonical (i : Instr) : i.canonical.wellFormed = true := by
  cases i with
  | buildW g c => exact wellFormed_ofBuildW g c
  | buildR g c => exact wellFormed_ofBuildR g c
  | _ => rfl

/-- A well-formed instruction is the name the decoder gives its word. -/
theorem canonical_of_wellFormed {i : Instr} (h : i.wellFormed = true) : i.canonical = i := by
  cases i with
  | buildW g c => exact if_neg ((wellFormed_buildW_iff g c).mp h)
  | buildR g c =>
    obtain ⟨hgetcfg, hfsize, hfchunk⟩ := (wellFormed_buildR_iff g c).mp h
    exact (if_neg hgetcfg).trans ((if_neg hfsize).trans (if_neg hfchunk))
  | _ => rfl

/-- A row of BUILD.W expands to the BUILD.W of its operand bytes (40_frame_build.md R71). -/
@[simp] theorem expansion_ofBuildW (g c : Byte) : (Instr.ofBuildW g c).expansion = .buildW g c := by
  unfold Instr.ofBuildW
  split
  · next h => rw [h.1, h.2]; rfl
  · rfl

/-- A row of BUILD.R expands to the BUILD.R of its operand bytes (R72 to R74). -/
@[simp] theorem expansion_ofBuildR (g c : Byte) : (Instr.ofBuildR g c).expansion = .buildR g c := by
  unfold Instr.ofBuildR
  split
  · next h => rw [h.1, h.2]; rfl
  · split
    · next h => rw [h.1, h.2]; rfl
    · split
      · next h => rw [h.1, h.2]; rfl
      · rfl

/-- The command word of an instruction has its OP. -/
theorem op_encode (i : Instr) : Word.op (encode i) = i.op := by
  cases i <;> exact op_commandWord ..

/-- The OP values of instructions are 0 to 4 (R48). -/
theorem op_toNat_le_four (i : Instr) : i.op.toNat ≤ 4 := by
  cases i <;> simp [Instr.op]

/-- The OP value of a word as a part of its number (R47). -/
theorem Word.op_eq_iff (w : Word) (k : BitVec 3) : Word.op w = k ↔ w.toNat % 8 = k.toNat := by
  rw [← BitVec.toNat_inj, Word.toNat_op]

/-- The GROUP byte of a word as a part of its number (R47). -/
theorem Word.group_eq_ofNat (w : Word) : Word.group w = BitVec.ofNat 8 (w.toNat / 2 ^ 8) :=
  BitVec.eq_of_toNat_eq (by simp [Word.toNat_group])

/-- The CMD byte of a word as a part of its number (R47). -/
theorem Word.command_eq_ofNat (w : Word) : Word.command w = BitVec.ofNat 8 (w.toNat / 2 ^ 16) :=
  BitVec.eq_of_toNat_eq (by simp [Word.toNat_command])

/-- The mask of the BUILD rows keeps bits 31:24 and 7:0 of a word (R59). -/
theorem toNat_and_buildMask (w : Word) :
    (w &&& 0xFF0000FF#32).toNat = w.toNat / 2 ^ 24 * 2 ^ 24 + w.toNat % 2 ^ 8 := by
  have parts : w = Word.rsvHi w ++ w.extractLsb' 8 16 ++ w.extractLsb' 0 8 := by
    apply BitVec.eq_of_toNat_eq
    simp only [toNat_append_eq, Word.toNat_rsvHi, BitVec.extractLsb'_toNat, Nat.shiftRight_eq_div_pow]
    omega
  have mask : 0xFF0000FF#32 = BitVec.allOnes 8 ++ 0#16 ++ BitVec.allOnes 8 := by decide
  have masked : w &&& 0xFF0000FF#32 = Word.rsvHi w ++ 0#16 ++ w.extractLsb' 0 8 :=
    calc w &&& 0xFF0000FF#32
        = (Word.rsvHi w ++ w.extractLsb' 8 16 ++ w.extractLsb' 0 8) &&&
          (BitVec.allOnes 8 ++ 0#16 ++ BitVec.allOnes 8) := congrArg₂ (· &&& ·) parts mask
      _ = Word.rsvHi w ++ 0#16 ++ w.extractLsb' 0 8 := by
        simp only [BitVec.and_append, BitVec.and_allOnes, BitVec.and_zero]
  rw [masked]
  simp only [toNat_append_eq, Word.toNat_rsvHi, BitVec.extractLsb'_toNat, BitVec.toNat_ofNat, Nat.shiftRight_zero]
  omega

end Sys2Proof

/-! ## The words that decode are the command words of the well-formed instructions (30_encoding.md R48 to R50) -/

namespace Sys2Proof.Machine

/-- What decodes has the name the decoder gives, and that name is well formed. -/
theorem wellFormed_of_decode_ok {w : Word} {i : Instr} (h : decode w = .ok i) : i.wellFormed = true := by
  have hi : decode w = .ok i.canonical := encode_of_decode_ok h ▸ decode_encode i
  rw [Except.ok.inj (h.symm.trans hi)]
  exact wellFormed_canonical i

/-- A word is the command word of a well-formed instruction exactly where it decodes to that instruction. -/
theorem eq_encode_iff_decode {i : Instr} (hi : i.wellFormed = true) {w : Word} : w = encode i ↔ decode w = .ok i :=
  ⟨fun hw => by rw [hw, decode_encode, canonical_of_wellFormed hi], fun h => (encode_of_decode_ok h).symm⟩

/-- A word that decodes has the OP of its instruction. -/
theorem op_of_decode_ok {w : Word} {i : Instr} (h : decode w = .ok i) : i.op.toNat = w.toNat % 8 := by
  rw [← op_encode, encode_of_decode_ok h, Word.toNat_op]

/-- A word that decodes is not illegal: the decoder asked for the bits that R50 reserves to be clear. -/
theorem not_illegalWord_of_decode_ok {w : Word} {i : Instr} (h : decode w = .ok i) : ¬ IllegalWord w.toNat := by
  have build {k : BitVec 3} (hk : k.toNat ≤ 1) (hop : Word.op w = k) (hlo : Word.rsvLo w = 0)
      (hhi : Word.rsvHi w = 0) : ¬ IllegalWord w.toNat := by
    rw [Word.op_eq_iff] at hop
    rw [Word.rsvLo_eq_zero_iff] at hlo
    rw [Word.rsvHi_eq_zero_iff] at hhi
    rw [IllegalWord]
    omega
  have bare {k : BitVec 3} (hk : k.toNat < 5 ∧ 2 ≤ k.toNat) (hop : Word.op w = k) (hab : Word.aboveOp w = 0) :
      ¬ IllegalWord w.toNat := by
    rw [Word.op_eq_iff] at hop
    rw [Word.aboveOp_eq_zero_iff] at hab
    rw [IllegalWord]
    omega
  rcases decode_ok_cases h with ⟨hop, hlo, hhi, _⟩ | ⟨hop, hlo, hhi, _⟩ | ⟨hop, hab, _⟩ | ⟨hop, hab, _⟩ | ⟨hop, hab, _⟩
  · exact build (by decide) hop hlo hhi
  · exact build (by decide) hop hlo hhi
  all_goals exact bare (by decide) hop hab

/-- A word that is not illegal is the command word of an instruction: that of its OP, with its GROUP and CMD bytes. -/
theorem exists_encode_eq_of_not_illegalWord {w : Word} (h : ¬ IllegalWord w.toNat) : ∃ i, encode i = w := by
  simp only [IllegalWord, not_or, not_and, not_not, Nat.reducePow] at h
  obtain ⟨hlt, hbuild, hbare⟩ := h
  have build {k : BitVec 3} (hop : w.toNat % 8 = k.toNat) (hle : w.toNat % 8 ≤ 1) :
      commandWord k (Word.group w) (Word.command w) = w := by
    obtain ⟨hlo, hhi⟩ := hbuild hle
    rw [← (Word.op_eq_iff w k).mpr hop]
    exact commandWord_of_fields ((Word.rsvLo_eq_zero_iff w).mpr hlo) ((Word.rsvHi_eq_zero_iff w).mpr hhi)
  have bare {k : BitVec 3} (hop : w.toNat % 8 = k.toNat) (hle : 2 ≤ w.toNat % 8) : commandWord k 0 0 = w := by
    rw [← (Word.op_eq_iff w k).mpr hop]
    exact commandWord_of_op ((Word.aboveOp_eq_zero_iff w).mpr (hbare hle))
  obtain h0 | h1 | h2 | h3 | h4 : w.toNat % 8 = 0 ∨ w.toNat % 8 = 1 ∨ w.toNat % 8 = 2 ∨ w.toNat % 8 = 3 ∨
    w.toNat % 8 = 4 := by omega
  · exact ⟨.buildW (Word.group w) (Word.command w), build h0 (by omega)⟩
  · exact ⟨.buildR (Word.group w) (Word.command w), build h1 (by omega)⟩
  · exact ⟨.parse, bare h2 (by omega)⟩
  · exact ⟨.combbe, bare h3 (by omega)⟩
  · exact ⟨.decle, bare h4 (by omega)⟩

/-- A word decodes exactly where it is not illegal (R50). -/
theorem exists_decode_ok_iff (w : Word) : (∃ i, decode w = .ok i) ↔ ¬ IllegalWord w.toNat := by
  refine ⟨fun ⟨i, hi⟩ => not_illegalWord_of_decode_ok hi, fun h => ?_⟩
  obtain ⟨i, rfl⟩ := exists_encode_eq_of_not_illegalWord h
  exact ⟨i.canonical, decode_encode i⟩

/-- A word is refused by the decoder exactly where it is illegal (R50). -/
theorem exists_decode_error_iff (w : Word) : (∃ e, decode w = .error e) ↔ IllegalWord w.toNat := by
  rw [← not_iff_not, ← exists_decode_ok_iff]
  cases decode w <;> simp

/-- A word selects the BUILD row of the OP value `k` exactly where it decodes to an instruction of that OP: the mask
keeps OP and the bits that R50 reserves under OP 0 and 1. -/
theorem and_buildMask_eq_iff (w : Word) {k : BitVec 3} (hk : k.toNat ≤ 1) :
    w &&& 0xFF0000FF#32 = BitVec.setWidth 32 k ↔ ∃ i, decode w = .ok i ∧ i.op = k := by
  have hmask : w &&& 0xFF0000FF#32 = BitVec.setWidth 32 k ↔ ¬ IllegalWord w.toNat ∧ w.toNat % 8 = k.toNat := by
    rw [← BitVec.toNat_inj, toNat_and_buildMask, BitVec.toNat_setWidth, IllegalWord]
    omega
  rw [hmask, ← exists_decode_ok_iff]
  constructor
  · rintro ⟨⟨i, hi⟩, hop⟩
    exact ⟨i, hi, BitVec.eq_of_toNat_eq ((op_of_decode_ok hi).trans hop)⟩
  · rintro ⟨i, hi, rfl⟩
    exact ⟨⟨i, hi⟩, (op_of_decode_ok hi).symm⟩

/-- An instruction that goes on records no ILLEGAL_OP: it ends in OPERAND_LENGTH, in TRUNCATED_HEADER or without error. -/
theorem exec_status_ne_illegalOp {i : Instr} {s t : State} (h : exec i s = .next t) : t.status ≠ 0x08#8 := by
  rcases exec_next_cases h with ⟨_, rfl | rfl, rfl⟩ | ⟨_, _, _, _, _, _, _, _, _, _, _, rfl⟩ | ⟨_, _, _, _, _, _, rfl⟩ |
    ⟨_, _, _, _, _, _, rfl⟩
  · exact (by decide : statusError .operandLength ≠ 0x08#8)
  · exact (by decide : statusError .truncatedHeader ≠ 0x08#8)
  · exact (by decide : statusDone .frame ≠ 0x08#8)
  · exact (by decide : statusDone .header ≠ 0x08#8)
  · exact (by decide : statusDone .value ≠ 0x08#8)

/-! ## The statements on the encoding -/

/-- Settles O11: the decoder answers the canonical name, which a well-formed instruction is itself. -/
theorem decodeInvertsEncode : Obligations.DecodeInvertsEncode :=
  ⟨fun _ hi => (eq_encode_iff_decode hi).mp rfl,
    fun i => ⟨decode_encode i, wellFormed_canonical i, encode_of_decode_ok (decode_encode i)⟩⟩

/-- Settles O12, by the fields of a legal word. -/
theorem encodeInvertsDecode : Obligations.EncodeInvertsDecode :=
  fun _ _ h => ⟨encode_of_decode_ok h, wellFormed_of_decode_ok h⟩

/-- Settles O13: a write of CW records ILLEGAL_OP for a refused word, and runs the instruction of any other. -/
theorem decodeRefusesExactlyIllegalWords : Obligations.DecodeRefusesExactlyIllegalWords := by
  intro w
  refine ⟨exists_decode_error_iff w, ?_, ?_⟩
  · rintro ⟨e, he⟩ s
    rcases issueWord_cases w s with ⟨i, hi, _⟩ | ⟨_, _, hs⟩
    · rw [he] at hi; cases hi
    · exact ⟨_, hs, rfl⟩
  · intro hlegal
    obtain ⟨i, hi⟩ : ∃ i, decode w = .ok i := by
      rwa [exists_decode_ok_iff, ← exists_decode_error_iff]
    have hop := op_of_decode_ok hi
    refine ⟨i, hi, hop, op_toNat_le_four i, fun s t ht => ?_⟩
    rcases issueWord_cases w s with ⟨j, _, hs⟩ | ⟨e, he, _⟩
    · exact exec_status_ne_illegalOp (hs ▸ ht)
    · exact absurd ⟨e, he⟩ hlegal

/-- Settles O14, by the five operations the decoder accepts. -/
theorem decodedInstructionHasTheWordsFields : Obligations.DecodedInstructionHasTheWordsFields := by
  intro w i h
  rcases decode_ok_cases h with ⟨hop, _, _, rfl⟩ | ⟨hop, _, _, rfl⟩ | ⟨hop, _, rfl⟩ | ⟨hop, _, rfl⟩ | ⟨hop, _, rfl⟩ <;>
    rw [← Word.toNat_op, hop]
  · simp [Word.group_eq_ofNat, Word.command_eq_ofNat]
  · simp [Word.group_eq_ofNat, Word.command_eq_ofNat]
  all_goals simp

/-- Settles O15: the BUILD rows by the bits their mask keeps, and each other row by the one word of its instruction. -/
theorem tableRowsSelectTheirInstructions : Obligations.TableRowsSelectTheirInstructions :=
  fun w => ⟨and_buildMask_eq_iff w (k := 0) (by decide), and_buildMask_eq_iff w (k := 1) (by decide),
    eq_encode_iff_decode (i := .parse) rfl, eq_encode_iff_decode (i := .combbe) rfl,
    eq_encode_iff_decode (i := .decle) rfl, eq_encode_iff_decode (i := .scan) rfl,
    eq_encode_iff_decode (i := .getcfg) rfl, eq_encode_iff_decode (i := .fsize) rfl,
    eq_encode_iff_decode (i := .fchunk) rfl⟩

/-- Settles O10: each legal word is the command word of a well-formed instruction; the other two are one word each. -/
theorem decodeReadsSpecWords : Obligations.DecodeReadsSpecWords :=
  ⟨(eq_encode_iff_decode rfl).mp (by decide), (eq_encode_iff_decode rfl).mp (by decide),
    (eq_encode_iff_decode rfl).mp rfl, (eq_encode_iff_decode rfl).mp rfl, (eq_encode_iff_decode rfl).mp rfl,
    (eq_encode_iff_decode rfl).mp rfl, (eq_encode_iff_decode rfl).mp rfl, (eq_encode_iff_decode rfl).mp rfl,
    (eq_encode_iff_decode rfl).mp rfl, rfl, rfl⟩

end Sys2Proof.Machine

/-! ## The frame a BUILD leaves (30_encoding.md R52 to R54; 40_frame_build.md R61) -/

namespace Sys2Proof.Machine

/-- The command word of operand bytes, written as a number (30_encoding.md R46). -/
theorem commandWord_eq_ofNat (op : BitVec 3) (g c : Byte) :
    commandWord op g c = BitVec.ofNat 32 (c.toNat * 65536 + g.toNat * 256 + op.toNat) := by
  rw [← toNat_commandWord, BitVec.ofNat_toNat, BitVec.setWidth_eq]

/-- BUILD.W is the issue of the word of its operand bytes and OP 0 (40_frame_build.md R62). -/
theorem exec_buildW (g c : Byte) (s : State) : exec (.buildW g c) s =
    issue (BitVec.ofNat 32 (c.toNat * 65536 + g.toNat * 256)) Config.maxPayload (buildFrame .write g c) s := by
  rw [exec, execBuildW, encode, commandWord_eq_ofNat, BitVec.ofNat_eq_ofNat, BitVec.toNat_ofNat, Nat.zero_mod,
    Nat.add_zero]

/-- BUILD.R is the issue of the word of its operand bytes and OP 1 (R63). -/
theorem exec_buildR (g c : Byte) (s : State) : exec (.buildR g c) s =
    issue (BitVec.ofNat 32 (c.toNat * 65536 + g.toNat * 256 + 1)) Config.maxPayload (buildFrame .read g c) s := by
  rw [exec, execBuildR, encode, commandWord_eq_ofNat]
  rfl

/-- The low byte of the length field (20_memory.md R33). -/
theorem lengthField_low (n : Nat) : (lengthField n).extractLsb' 0 8 = BitVec.ofNat 8 ((n + 2) % 256) := by
  apply BitVec.eq_of_toNat_eq
  simp [lengthField, BitVec.extractLsb'_toNat]

/-- The high byte of the length field, where the length fits its 16 bits. -/
theorem lengthField_high {n : Nat} (hn : n + 2 < 2 ^ 16) :
    (lengthField n).extractLsb' 8 8 = BitVec.ofNat 8 ((n + 2) / 256) := by
  apply BitVec.eq_of_toNat_eq
  rw [BitVec.extractLsb'_toNat, lengthField, BitVec.toNat_ofNat, BitVec.toNat_ofNat, Nat.mod_eq_of_lt hn,
    Nat.shiftRight_eq_div_pow]

section
variable {s : State} {p : List Byte}

/-- After an issue that built a frame OUT_BUF holds the frame's bytes and no other. -/
theorem read_outBuf_putFrame (w : Word) (f : List Byte) (i : Nat) :
    ((s.beginIssue w).putFrame f).outBuf.read i = f[i]? :=
  Memory.read_writeFrom_nil f i

/-- A frame of a payload that the length field can count is left byte for byte, and no other result with it. -/
theorem frameIs_putFrame (w : Word) (d : Direction) (g c : Byte) (hp : p.length ≤ 65533) :
    ((s.beginIssue w).putFrame (frameBytes d g c p)).FrameIs (flagsOf d) g c p := by
  have read := read_outBuf_putFrame (s := s) w (frameBytes d g c p)
  have low : (frameBytes d g c p)[2]? = some (BitVec.ofNat 8 ((p.length + 2) % 256)) :=
    congrArg some (lengthField_low p.length)
  have high : (frameBytes d g c p)[3]? = some (BitVec.ofNat 8 ((p.length + 2) / 256)) :=
    congrArg some (lengthField_high (by omega))
  have payload (i : Nat) : (frameBytes d g c p)[6 + i]? = p[i]? := by
    rw [Nat.add_comm]
    rfl
  refine ⟨rfl, rfl, ?_, read 0, read 1, (read 2).trans low, (read 3).trans high, read 4, read 5,
    fun i hi => ?_, fun i hi => ?_, rfl, rfl, rfl, rfl, rfl, rfl⟩
  · rw [State.putFrame_outLen, Option.map_some, BitVec.toNat_ofNat, length_frameBytes, Nat.mod_eq_of_lt (by omega)]
  · rw [read, payload, List.getElem?_eq_getElem hi]
  · rw [read, List.getElem?_eq_none hi]

/-- A BUILD of an admitted, written payload completes with its frame, and leaves the rest as an issue does. -/
theorem issue_buildFrame_completes {n : Half} (hl : s.cfg.Legal) (hn : s.inLen = some n)
    (hmax : n.toNat ≤ s.cfg.maxPayload) (hlen : p.length = n.toNat) (hp : s.InputIs p) (w : Word) (d : Direction)
    (g c : Byte) : ∃ t, issue w Config.maxPayload (buildFrame d g c) s = .next t ∧ t.FrameIs (flagsOf d) g c p ∧
      Issued w s t := by
  obtain ⟨_, hcap, _, _, hmax16, _⟩ := hl
  have operand : s.operand n.toNat = some p := (s.operand_eq_some_iff n.toNat p).mpr ⟨hlen, hp⟩
  refine ⟨(s.beginIssue w).putFrame (frameBytes d g c p), ?_, frameIs_putFrame w d g c (by omega),
    rfl, rfl, fun _ => rfl, rfl, rfl, rfl⟩
  rw [issue_of_admitted hn (hmax.trans hcap) hmax, buildFrame, withOperand, State.operand_beginIssue, operand]

/-- A BUILD of an admitted payload with a byte of `⊥` is the model fault (10_state.md R26). -/
theorem issue_buildFrame_of_unwritten {n : Half} (hl : s.cfg.Legal) (hn : s.inLen = some n)
    (hmax : n.toNat ≤ s.cfg.maxPayload) (hbot : ∃ k, k < n.toNat ∧ s.inBuf.read k = none) (w : Word) (d : Direction)
    (g c : Byte) : issue w Config.maxPayload (buildFrame d g c) s = .fault .readUnwritten := by
  obtain ⟨_, hcap, _⟩ := hl
  rw [issue_of_admitted hn (hmax.trans hcap) hmax, buildFrame]
  exact (withOperand_eq_fault_iff n.toNat _ (s.beginIssue w)).mpr hbot

/-- An instruction that leaves KIND FRAME built the frame of its operand, in the direction of its OP. -/
theorem exec_frame_cases {i : Instr} {t : State} (h : exec i s = .next t) (hframe : t.status = 0x01#8) :
    ∃ (d : Direction) (g c : Byte) (n : Half) (p : List Byte), s.inLen = some n ∧ n.toNat ≤ s.cfg.maxPayload ∧
      p.length = n.toNat ∧ ((i.op = 0 ∧ d = .write) ∨ (i.op = 1 ∧ d = .read)) ∧
      t = (s.beginIssue (encode i)).putFrame (frameBytes d g c p) := by
  rcases exec_next_cases h with ⟨err, _, rfl⟩ | ⟨d, g, c, n, p, hn, hlim, _, hmax, hp, hd, ht⟩ |
    ⟨_, _, _, _, _, _, rfl⟩ | ⟨_, _, _, _, _, _, rfl⟩
  · rw [State.putError_status] at hframe
    exact absurd hframe (by cases err <;> decide)
  · obtain ⟨hlen, _⟩ := (s.operand_eq_some_iff n.toNat p).mp hp
    exact ⟨d, g, c, n, p, hn, hmax ▸ hlim, hlen, hd, ht⟩
  · exact absurd hframe (by decide : statusDone .header ≠ 0x01#8)
  · exact absurd hframe (by decide : statusDone .value ≠ 0x01#8)

end

/-- The two bytes of the length field, put together, are `n + 2` (R54). -/
theorem lengthBytes_combine {n : Nat} (hn : n + 2 < 2 ^ 16) :
    (BitVec.ofNat 8 ((n + 2) / 256)).toNat <<< 8 ||| (BitVec.ofNat 8 ((n + 2) % 256)).toNat = n + 2 := by
  rw [← Nat.shiftLeft_add_eq_or_of_lt (BitVec.isLt _), Nat.shiftLeft_eq, BitVec.toNat_ofNat, BitVec.toNat_ofNat]
  omega

/-! ## The statements on the frame serializer -/

/-- Settles O16: a written payload is the operand the frame is built of, and a payload byte of `⊥` is the model fault. -/
theorem buildsSerializeTheirFrame : Obligations.BuildsSerializeTheirFrame := by
  intro g c s n hl hn hmax
  rw [exec_buildW, exec_buildR]
  exact ⟨fun p hlen hp => ⟨issue_buildFrame_completes hl hn hmax hlen hp _ .write g c,
      issue_buildFrame_completes hl hn hmax hlen hp _ .read g c⟩,
    fun hbot => ⟨issue_buildFrame_of_unwritten hl hn hmax hbot _ .write g c,
      issue_buildFrame_of_unwritten hl hn hmax hbot _ .read g c⟩⟩

/-- Settles O19: the frame's byte 0 is the flags byte of the direction of its OP. -/
theorem flagsByteIsOneOfTwo : Obligations.FlagsByteIsOneOfTwo := by
  refine ⟨rfl, rfl, by decide, fun i s t ht hframe => ?_⟩
  obtain ⟨d, g, c, n, p, _, _, _, hd, rfl⟩ := exec_frame_cases ht hframe
  have flags := read_outBuf_putFrame (s := s) (encode i) (frameBytes d g c p) 0
  rcases hd with ⟨hop, rfl⟩ | ⟨hop, rfl⟩
  · exact .inl ⟨hop, flags⟩
  · exact .inr ⟨hop, flags⟩

/-- Settles O20: bytes 2 and 3 count the payload and the two bytes before it, and MAX_PAYLOAD bounds the payload. -/
theorem frameLengthFollowsFromItsBytes : Obligations.FrameLengthFollowsFromItsBytes := by
  intro i s t hl ht hframe
  obtain ⟨d, g, c, n, p, hn, hmax, hlen, _, rfl⟩ := exec_frame_cases ht hframe
  obtain ⟨_, _, _, _, hmax16, _⟩ := hl
  obtain ⟨_, _, hout, _, _, hlow, hhigh, _⟩ := frameIs_putFrame (s := s) (p := p) (encode i) d g c (by omega)
  refine ⟨_, _, n, hlow, hhigh, hn, ?_, hlen ▸ hout, ?_⟩
  · rw [lengthBytes_combine (by omega), hlen]
    omega
  · rw [State.putFrame_cfg, State.beginIssue_cfg, Config.outCap]
    omega

/-- Settles O18: the pseudo-operation and its BUILD are the issue of one word with one operation. -/
theorem pseudoOperationsAreTheirBuild : Obligations.PseudoOperationsAreTheirBuild :=
  fun _ => ⟨rfl, rfl, rfl, rfl⟩

end Sys2Proof.Machine

/-! ## A PARSE of four written bytes, and the round trip of a frame (40_frame_build.md R70; 41_header_parse.md R76) -/

namespace Sys2Proof.Machine

/-- After an issue that parsed four bytes the results are their header and no other. -/
theorem headerIs_putHeader (w : Word) (b0 b1 b2 b3 : Byte) (s : State) :
    ((s.beginIssue w).putHeader b0 b1 b2 b3 (declaredLength b2 b3)).HeaderIs b0 b1 b2 b3 :=
  ⟨rfl, rfl, rfl, rfl, rfl, congrArg some (toNat_declaredLength b2 b3), rfl, rfl, fun _ => rfl, rfl⟩

/-- A PARSE of at least four bytes offered, the first four written, completes with their header, and leaves the rest as
an issue does. -/
theorem exec_parse_completes {s : State} {n : Half} {b0 b1 b2 b3 : Byte} (hn : s.inLen = some n) (hmin : 4 ≤ n.toNat)
    (hcap : n.toNat ≤ s.cfg.inCap) (h0 : s.inBuf.read 0 = some b0) (h1 : s.inBuf.read 1 = some b1)
    (h2 : s.inBuf.read 2 = some b2) (h3 : s.inBuf.read 3 = some b3) :
    ∃ t, exec .parse s = .next t ∧ t.HeaderIs b0 b1 b2 b3 ∧ Issued 0x00000002#32 s t := by
  have operand : s.operand 4 = some [b0, b1, b2, b3] := by
    refine (s.operand_eq_some_iff 4 _).mpr ⟨rfl, fun k hk => ?_⟩
    match k, hk with
    | 0, _ => exact h0
    | 1, _ => exact h1
    | 2, _ => exact h2
    | 3, _ => exact h3
  have parse : parseHeader n.toNat (s.beginIssue (encode .parse)) =
      .next (headerResults [b0, b1, b2, b3] (s.beginIssue (encode .parse))) := by
    rw [parseHeader, if_neg (by omega), withOperand, State.operand_beginIssue, operand]
  exact ⟨_, (issue_of_admitted hn hcap hcap).trans parse, headerIs_putHeader _ b0 b1 b2 b3 s,
    rfl, rfl, fun _ => rfl, rfl, rfl, rfl⟩

/-- Settles O21: the first four bytes of the frame are PARSE's operand, and bytes 2 and 3 count `n + 2`. -/
theorem parseOfBuiltFrameGivesItsLength : Obligations.ParseOfBuiltFrameGivesItsLength := by
  intro i s t u n m hl hn ht hframe _ hm hmn hcap hcopy
  obtain ⟨d, g, c, n', p, hn', hmax, hlen, hd, rfl⟩ := exec_frame_cases ht hframe
  obtain rfl : n = n' := Option.some.inj (hn.symm.trans hn')
  obtain ⟨_, _, _, _, hmax16, _⟩ := hl
  obtain ⟨_, _, _, hflags, hseq, hlow, hhigh, _⟩ := frameIs_putFrame (s := s) (p := p) (encode i) d g c (by omega)
  rw [hlen] at hlow hhigh
  obtain ⟨v, hv, ⟨hstatus, hb0, hb1, hb2, hb3, hdecl, _⟩, _⟩ := exec_parse_completes hm (by omega) hcap
    ((hcopy 0 (by omega)).trans hflags) ((hcopy 1 (by omega)).trans hseq)
    ((hcopy 2 (by omega)).trans hlow) ((hcopy 3 (by omega)).trans hhigh)
  refine ⟨v, hv, hstatus, ?_, hb0.trans hflags.symm, ?_, hb1, hb2, hb3⟩
  · rw [hdecl, BitVec.toNat_ofNat, BitVec.toNat_ofNat]
    congr 1
    omega
  · rcases hd with ⟨hop, rfl⟩ | ⟨hop, rfl⟩
    · exact .inl ⟨hop, hb0⟩
    · exact .inr ⟨hop, hb0⟩

end Sys2Proof.Machine

/-! ## The device commands: their command words and their lines (40_frame_build.md R71 to R75) -/

namespace Sys2Proof.Machine

/-- Settles O17: each word's effect is that of its BUILD, which completes on a written payload. -/
theorem pseudoOperationsSerializeTheirFrame : Obligations.PseudoOperationsSerializeTheirFrame := by
  intro s n p hl hn hmax hlen hp
  obtain ⟨hscan, hgetcfg, hfsize, hfchunk⟩ := pseudoOperationsAreTheirBuild s
  have build (g c : Byte) := (buildsSerializeTheirFrame g c s n hl hn hmax).1 p hlen hp
  rw [hscan, hgetcfg, hfsize, hfchunk]
  exact ⟨(build 0x02#8 0x18#8).1, (build 0x02#8 0x23#8).2, (build 0x00#8 0x2D#8).2, (build 0x00#8 0x2E#8).2⟩

/-- An instruction and the operation it expands to have one effect. -/
theorem exec_expansion (i : Instr) (s : State) : exec i.expansion s = exec i s := by
  obtain ⟨hscan, hgetcfg, hfsize, hfchunk⟩ := pseudoOperationsAreTheirBuild s
  cases i with
  | scan => exact hscan.symm
  | getcfg => exact hgetcfg.symm
  | fsize => exact hfsize.symm
  | fchunk => exact hfchunk.symm
  | _ => rfl

/-- The name the decoder gives an instruction expands to what the instruction does. -/
theorem expansion_canonical (i : Instr) : i.canonical.expansion = i.expansion := by
  cases i with
  | buildW g c => exact expansion_ofBuildW g c
  | buildR g c => exact expansion_ofBuildR g c
  | _ => rfl

/-- An instruction has its effect under the name the decoder gives it. -/
theorem exec_canonical (i : Instr) (s : State) : exec i.canonical s = exec i s := by
  rw [← exec_expansion, expansion_canonical, exec_expansion]

/-- The BUILD of a direction: BUILD.W or BUILD.R (R62, R63). -/
def buildOf : Direction → Byte → Byte → Instr
  | .write => .buildW
  | .read => .buildR

/-- A BUILD is the issue of its word with the frame of its direction. -/
theorem exec_buildOf (d : Direction) (g c : Byte) (s : State) : exec (buildOf d g c) s =
    issue (encode (buildOf d g c)) Config.maxPayload (buildFrame d g c) s := by
  cases d <;> rfl

/-- The accesses of a BUILD line run to the end and leave its word in CW, its bytes in IN_BUF and their frame. -/
theorem run_buildLine {s : State} {rest : List HostAccess} (d : Direction) (g c : Byte) (bytes : List Byte)
    (hl : s.cfg.Legal) (hmax : bytes.length ≤ s.cfg.maxPayload)
    (hh : s.host = issueSequence (buildOf d g c) bytes ++ rest) :
    ∃ t, run (bytes.length + 2) s = .next t ∧ t.host = rest ∧ t.cw = some (encode (buildOf d g c)) ∧
      t.inLen = some (BitVec.ofNat 16 bytes.length) ∧ t.InputIs bytes ∧ t.FrameIs (flagsOf d) g c bytes := by
  have ⟨_, hcap, _, _, hmax16, _⟩ := hl
  have hlen : (BitVec.ofNat 16 bytes.length).toNat = bytes.length := by
    rw [BitVec.toNat_ofNat, Nat.mod_eq_of_lt (by omega)]
  have hin := s.inputIs_withLineOperands bytes rest
  obtain ⟨t, ht, hframe, hcw, hinLen, hinBuf, _, hhost, _⟩ :=
    issue_buildFrame_completes (s := s.withLineOperands bytes rest) hl rfl (hlen.trans_le hmax) hlen.symm hin
      (encode (buildOf d g c)) d g c
  refine ⟨t, ?_, hhost, hcw, hinLen, fun k hk => (hinBuf k).trans (hin k hk), hframe⟩
  rw [run_issueSequence hl (hmax.trans hcap) hh, exec_canonical, exec_buildOf, ht]

/-- Settles O48: a pseudo-operation's line is the line of its BUILD, and every BUILD line leaves its frame. -/
theorem pseudoLinesLeaveTheirFrames : Obligations.PseudoLinesLeaveTheirFrames := by
  refine ⟨rfl, rfl, fun _ => rfl, rfl, fun s rest fileId hl => ⟨fun hh hmax => ?_, fun hh => ?_, fun hh hmax => ?_,
    fun hh => ?_⟩⟩
  · obtain ⟨t, hrun, hhost, hcw, hinLen, hin, hframe⟩ := run_buildLine .write 0x02#8 0x18#8 [0x00#8] hl hmax hh
    exact ⟨t, hrun, hhost, hcw, hinLen, hin 0 Nat.zero_lt_one, hframe⟩
  · obtain ⟨t, hrun, hhost, hcw, hinLen, _, hframe⟩ := run_buildLine .read 0x02#8 0x23#8 [] hl (Nat.zero_le _) hh
    exact ⟨t, hrun, hhost, hcw, hinLen, hframe⟩
  · obtain ⟨t, hrun, hhost, hcw, hinLen, hin, hframe⟩ := run_buildLine .read 0x00#8 0x2D#8 [fileId] hl hmax hh
    exact ⟨t, hrun, hhost, hcw, hinLen, hin 0 Nat.zero_lt_one, hframe⟩
  · obtain ⟨t, hrun, hhost, hcw, hinLen, _, hframe⟩ := run_buildLine .read 0x00#8 0x2E#8 [] hl (Nat.zero_le _) hh
    exact ⟨t, hrun, hhost, hcw, hinLen, hframe⟩

end Sys2Proof.Machine

/-! ## The header parser on short and long operands, and its declared length (41_header_parse.md R77 to R81) -/

namespace Sys2Proof.Machine

section
variable {s : State} {n : Half}

/-- A PARSE of fewer than four bytes, in a configuration that admits them, records TRUNCATED_HEADER (R77). -/
theorem exec_parse_of_short (hl : s.cfg.Legal) (hn : s.inLen = some n) (hshort : n.toNat < 4) :
    exec .parse s = .next ((s.beginIssue 0x00000002#32).putError .truncatedHeader) := by
  have hcap : n.toNat ≤ s.cfg.inCap := hshort.le.trans hl.1
  have parse : parseHeader n.toNat (s.beginIssue (encode .parse)) =
      raiseError .truncatedHeader (s.beginIssue (encode .parse)) := if_pos hshort
  exact (issue_of_admitted hn hcap hcap).trans parse

/-- An issue that combines an admitted, written operand completes with the combined number, and leaves the rest as an
issue does. -/
theorem issue_combine_completes {p : List Byte} (hl : s.cfg.Legal) (hn : s.inLen = some n)
    (hmax : n.toNat ≤ s.cfg.maxCombine) (hlen : p.length = n.toNat) (hp : s.InputIs p) (w : Word)
    (combine : List Byte → Nat) :
    ∃ t, issue w Config.maxCombine (fun k => withOperand k fun bytes => State.putValue (combine bytes)) s = .next t ∧
      t.ValueIs (combine p) ∧ Issued w s t := by
  obtain ⟨_, _, hcap, _⟩ := hl
  have operand : s.operand n.toNat = some p := (s.operand_eq_some_iff n.toNat p).mpr ⟨hlen, hp⟩
  refine ⟨(s.beginIssue w).putValue (combine p), ?_,
    ⟨rfl, rfl, rfl, rfl, fun _ => rfl, rfl, rfl, rfl, rfl, rfl⟩, rfl, rfl, fun _ => rfl, rfl, rfl, rfl⟩
  rw [issue_of_admitted hn (hmax.trans hcap) hmax, withOperand, State.operand_beginIssue, operand]

end

/-- Two bytes combined, the first the more significant (42_byte_combine.md R83). -/
theorem combineBE_pair (high low : Byte) : combineBE [high, low] = high.toNat * 256 + low.toNat := by
  simp [combineBE, Nat.shiftLeft_eq]

/-- Two bytes decoded, the second the more significant (R85). -/
theorem decodeLE_pair (low high : Byte) : decodeLE [low, high] = high.toNat * 256 + low.toNat :=
  combineBE_pair high low

/-- Settles O22: the four bytes are PARSE's operand whatever IN_LEN offers beyond them, and a `⊥` among them is the model
fault. -/
theorem parseKeepsFourBytesAndDeclaresLength : Obligations.ParseKeepsFourBytesAndDeclaresLength :=
  fun s n hn hmin hcap => ⟨fun _ _ _ _ h0 h1 h2 h3 => exec_parse_completes hn hmin hcap h0 h1 h2 h3,
    fun hbot => (exec_eq_fault_iff .parse s).mpr (.inr ⟨n, hn, hcap, hcap, fun _ => hmin, hbot⟩)⟩

/-- Settles O23: the length check comes before any byte is read, so the error needs nothing of IN_BUF. -/
theorem shortParseRaisesTruncatedHeader : Obligations.ShortParseRaisesTruncatedHeader :=
  fun _ _ hl hn hshort => ⟨_, exec_parse_of_short hl hn hshort, rfl,
    ⟨rfl, rfl, fun _ => rfl, rfl, rfl, rfl, rfl, rfl, rfl⟩, rfl, rfl, fun _ => rfl, rfl, rfl, rfl⟩

/-- Settles O24: all three complete, and a pair of bytes is the same number in both orders of the combiner. -/
theorem declaredLengthAgreesWithCombiner : Obligations.DeclaredLengthAgreesWithCombiner := by
  intro s u v b0 b1 b2 b3 hsl hsn hs hul humax hun hu hvl hvmax hvn hv
  obtain ⟨s', hparse, ⟨_, _, _, _, _, hdecl, _⟩, _⟩ := exec_parse_completes hsn le_rfl hsl.1
    (hs 0 (by simp)) (hs 1 (by simp)) (hs 2 (by simp)) (hs 3 (by simp))
  obtain ⟨u', hdecle, ⟨_, hu', _⟩, _⟩ := issue_combine_completes hul hun humax rfl hu (encode .decle) decodeLE
  obtain ⟨v', hcombbe, ⟨_, hv', _⟩, _⟩ := issue_combine_completes hvl hvn hvmax rfl hv (encode .combbe) combineBE
  rw [decodeLE_pair] at hu'
  rw [combineBE_pair] at hv'
  exact ⟨s', u', v', hparse, hdecle, hcombbe, hdecl, hu', hv'⟩

end Sys2Proof.Machine

/-! ## The byte-order combiner (42_byte_combine.md R83 to R88)

What is said of both orders of bytes is proved once, for the little-endian decode by its first byte (`decodeLE_cons`), and
comes to the big-endian combiner by reversing the bytes. -/

namespace Sys2Proof.Machine

/-- The big-endian number is the little-endian number of the reversed bytes (R85). -/
theorem combineBE_eq_decodeLE_reverse (p : List Byte) : combineBE p = decodeLE p.reverse := by
  rw [decodeLE, List.reverse_reverse]

/-- One more byte gives 256 times as many numbers. -/
theorem two_pow_bytes_succ (k : Nat) : 2 ^ (8 * (k + 1)) = 2 ^ (8 * k) * 256 := by
  rw [Nat.mul_succ, Nat.pow_add]

/-- A last byte moves the big-endian number up by one byte position and stands below it: one round of R83's loop. -/
theorem combineBE_concat (p : List Byte) (b : Byte) : combineBE (p ++ [b]) = combineBE p * 256 + b.toNat := by
  induction p with
  | nil => simp [combineBE]
  | cons a p ih =>
    rw [List.cons_append, combineBE, combineBE, ih, List.length_append, List.length_singleton, Nat.shiftLeft_eq,
      Nat.shiftLeft_eq, two_pow_bytes_succ]
    ring

/-- A first byte stands below the little-endian number of the rest (R87). -/
theorem decodeLE_cons (b : Byte) (p : List Byte) : decodeLE (b :: p) = decodeLE p * 256 + b.toNat := by
  rw [decodeLE, List.reverse_cons, combineBE_concat, decodeLE]

/-- The big-endian number is the sum of its contributions, the first byte the most significant (R83). -/
theorem combineBE_eq_sum (p : List Byte) :
    combineBE p = ∑ i : Fin p.length, p[i].toNat <<< (8 * (p.length - 1 - i.val)) := by
  induction p with
  | nil => rfl
  | cons b p ih =>
    have position (i : Fin p.length) : p.length - (i.val + 1) = p.length - 1 - i.val := by omega
    simp only [combineBE, ih, List.length_cons, Fin.sum_univ_succ, Fin.getElem_fin, Fin.val_zero, Fin.val_succ,
      List.getElem_cons_zero, List.getElem_cons_succ, position, Nat.add_sub_cancel, Nat.sub_zero]

/-- The big-endian number is what R83's loop computes. -/
theorem combineBE_eq_foldl (p : List Byte) : combineBE p = p.foldl (fun v b => v * 256 + b.toNat) 0 := by
  induction p using List.reverseRecOn with
  | nil => rfl
  | append_singleton p b ih => rw [combineBE_concat, List.foldl_concat, ih]

/-- The little-endian number is the sum of its contributions, the first byte the least significant (R87). -/
theorem decodeLE_eq_sum (p : List Byte) : decodeLE p = ∑ i : Fin p.length, p[i].toNat <<< (8 * i.val) := by
  induction p with
  | nil => rfl
  | cons b p ih =>
    have position (i : Fin p.length) : p[i].toNat <<< (8 * (i.val + 1)) = p[i].toNat <<< (8 * i.val) * 256 := by
      rw [Nat.mul_succ, Nat.shiftLeft_add, Nat.shiftLeft_eq _ 8]
    simp only [Fin.getElem_fin] at ih position
    simp only [decodeLE_cons, ih, List.length_cons, Fin.sum_univ_succ, Fin.getElem_fin, Fin.val_zero, Fin.val_succ,
      List.getElem_cons_zero, List.getElem_cons_succ, position, Finset.sum_mul, Nat.mul_zero, Nat.shiftLeft_zero,
      Nat.add_comm]

/-- The little-endian number of a known count of bytes determines each of them. -/
theorem decodeLE_inj {p q : List Byte} (hlen : p.length = q.length) (h : decodeLE p = decodeLE q) : p = q := by
  induction p generalizing q with
  | nil => exact (List.length_eq_zero_iff.mp hlen.symm).symm
  | cons a p ih =>
    match q, hlen with
    | b :: q, hlen =>
      rw [decodeLE_cons, decodeLE_cons] at h
      have ha := a.isLt
      have hb := b.isLt
      obtain rfl : a = b := BitVec.eq_of_toNat_eq (by omega)
      rw [ih (Nat.succ.inj hlen) (by omega)]

/-- The largest little-endian number is that of bytes which are all 0xFF (R88). -/
theorem decodeLE_eq_max_iff (p : List Byte) : decodeLE p = 2 ^ (8 * p.length) - 1 ↔ ∀ b ∈ p, b = 0xFF#8 := by
  induction p with
  | nil => simp [decodeLE, combineBE]
  | cons b p ih =>
    have hb := b.isLt
    have hp := decodeLE_lt p
    have byte : b = 0xFF#8 ↔ b.toNat = 255 := BitVec.toNat_inj.symm
    rw [List.forall_mem_cons, ← ih, byte, decodeLE_cons, List.length_cons, two_pow_bytes_succ]
    omega

/-- The largest big-endian number is that of bytes which are all 0xFF (R88). -/
theorem combineBE_eq_max_iff (p : List Byte) : combineBE p = 2 ^ (8 * p.length) - 1 ↔ ∀ b ∈ p, b = 0xFF#8 := by
  rw [combineBE_eq_decodeLE_reverse, ← List.length_reverse, decodeLE_eq_max_iff]
  simp only [List.mem_reverse]

section
variable {s : State}

/-- An issue that combines no bytes completes with the number of the empty sequence, whatever IN_BUF and the limits
hold (R86). -/
theorem issue_combine_empty (hn : s.inLen = some 0#16) (w : Word) (combine : List Byte → Nat) :
    ∃ t, issue w Config.maxCombine (fun k => withOperand k fun bytes => State.putValue (combine bytes)) s = .next t ∧
      t.ValueIs (combine []) ∧ Issued w s t :=
  ⟨(s.beginIssue w).putValue (combine []), issue_of_admitted hn (Nat.zero_le _) (Nat.zero_le _),
    ⟨rfl, rfl, rfl, rfl, fun _ => rfl, rfl, rfl, rfl, rfl, rfl⟩, rfl, rfl, fun _ => rfl, rfl, rfl, rfl⟩

/-- An issue that combines an admitted operand with a byte of `⊥` is the model fault (10_state.md R26). -/
theorem issue_combine_of_unwritten {n : Half} (hl : s.cfg.Legal) (hn : s.inLen = some n)
    (hmax : n.toNat ≤ s.cfg.maxCombine) (hbot : ∃ k, k < n.toNat ∧ s.inBuf.read k = none) (w : Word)
    (combine : List Byte → Nat) :
    issue w Config.maxCombine (fun k => withOperand k fun bytes => State.putValue (combine bytes)) s =
      .fault .readUnwritten := by
  obtain ⟨_, _, hcap, _⟩ := hl
  rw [issue_of_admitted hn (hmax.trans hcap) hmax]
  exact (withOperand_eq_fault_iff n.toNat _ (s.beginIssue w)).mpr hbot

/-- A VALUE comes from COMBBE or DECLE only, and is the number of the operand, which MAX_COMBINE bounds. -/
theorem exec_value_cases {i : Instr} {t : State} {v : Nat} (h : exec i s = .next t) (hv : t.value = some v) :
    ∃ (n : Half) (p : List Byte), s.inLen = some n ∧ n.toNat ≤ s.cfg.maxCombine ∧ p.length = n.toNat ∧ s.InputIs p ∧
      t.cfg = s.cfg ∧ ((i = .combbe ∧ v = combineBE p) ∨ (i = .decle ∧ v = decodeLE p)) := by
  rcases exec_next_cases h with ⟨_, _, rfl⟩ | ⟨_, _, _, _, _, _, _, _, _, _, _, rfl⟩ | ⟨_, _, _, _, _, _, rfl⟩ |
    ⟨hi, n, p, hn, hmax, hp, rfl⟩
  · cases hv
  · cases hv
  · cases hv
  · obtain ⟨hlen, hin⟩ := (s.operand_eq_some_iff n.toNat p).mp hp
    refine ⟨n, p, hn, hmax, hlen, hin, rfl, ?_⟩
    rcases hi with rfl | rfl
    · exact .inl ⟨rfl, (Option.some.inj hv).symm⟩
    · exact .inr ⟨rfl, (Option.some.inj hv).symm⟩

end

/-! ## The statements on the byte-order combiner -/

/-- Settles O29: the contributions of all but one byte are those of a shorter sequence. -/
theorem combineIsItsSumAndItsLoop : Obligations.CombineIsItsSumAndItsLoop :=
  fun p => ⟨combineBE_eq_sum p, combineBE_eq_foldl p, decodeLE_eq_sum p⟩

/-- Settles O30: byte by byte from the least significant, in either order. -/
theorem combineDeterminesItsBytes : Obligations.CombineDeterminesItsBytes := by
  refine fun p q hlen => ⟨fun h => ?_, decodeLE_inj hlen⟩
  rw [combineBE_eq_decodeLE_reverse, combineBE_eq_decodeLE_reverse] at h
  exact List.reverse_injective (decodeLE_inj (by rw [List.length_reverse, List.length_reverse, hlen]) h)

/-- Settles O25: the combined operand is its sum, and an operand byte of `⊥` is the model fault. -/
theorem combbeSumsBigEndianContributions : Obligations.CombbeSumsBigEndianContributions := by
  intro s n hl hn hmax
  refine ⟨fun p hlen hp => ?_, fun hbot => issue_combine_of_unwritten hl hn hmax hbot (encode .combbe) combineBE⟩
  rw [← combineBE_eq_sum]
  exact issue_combine_completes hl hn hmax hlen hp (encode .combbe) combineBE

/-- Settles O26: the decoded operand is its sum, and an operand byte of `⊥` is the model fault. -/
theorem decleSumsLittleEndianContributions : Obligations.DecleSumsLittleEndianContributions := by
  intro s n hl hn hmax
  refine ⟨fun p hlen hp => ?_, fun hbot => issue_combine_of_unwritten hl hn hmax hbot (encode .decle) decodeLE⟩
  rw [← decodeLE_eq_sum]
  exact issue_combine_completes hl hn hmax hlen hp (encode .decle) decodeLE

/-- Settles O27: no byte is read, and both orders combine the empty sequence to 0. -/
theorem emptySequenceCombinesToZero : Obligations.EmptySequenceCombinesToZero :=
  fun _ hn => ⟨issue_combine_empty hn (encode .combbe) combineBE, issue_combine_empty hn (encode .decle) decodeLE⟩

/-- Settles O28: 8 bits for each byte bound the number, and MAX_COMBINE bounds the bytes. -/
theorem combinedValueFitsItsWidth : Obligations.CombinedValueFitsItsWidth := by
  refine ⟨fun p => ⟨Nat.le_sub_one_of_lt (combineBE_lt p), combineBE_eq_max_iff p, Nat.le_sub_one_of_lt (decodeLE_lt p),
    decodeLE_eq_max_iff p⟩, fun i s t v ht hv => ?_, rfl⟩
  obtain ⟨n, p, hn, hmax, hlen, hin, hcfg, hcombined⟩ := exec_value_cases ht hv
  have range : v < 2 ^ (8 * n.toNat) := by
    rw [← hlen]
    rcases hcombined with ⟨_, rfl⟩ | ⟨_, rfl⟩
    · exact combineBE_lt p
    · exact decodeLE_lt p
  have width : 2 ^ (8 * n.toNat) ≤ 2 ^ t.cfg.valueWidth :=
    Nat.pow_le_pow_right (by decide) (by rw [hcfg, Config.valueWidth]; omega)
  exact ⟨n, p, hn, hlen, hin, hcombined, Nat.le_sub_one_of_lt range, range.trans_le width⟩

end Sys2Proof.Machine

/-! ## The checks of an issue in their order, and the STATUS each of them leaves (60_exceptions.md R90 to R95) -/

namespace Sys2Proof.Machine

/-- STATUS as a number: KIND from bit 0, ERR from bit 2 (10_state.md R16). -/
theorem toNat_statusOf (kind : Kind) (err : ErrorCode) :
    (statusOf kind err).toNat = err.code.toNat * 4 + kind.code.toNat := by
  rw [statusOf, toNat_append_eq, toNat_append_eq, BitVec.toNat_ofNat]
  omega

/-- STATUS of an issue without error has no bit above KIND. -/
theorem toNat_statusDone (kind : Kind) : (statusDone kind).toNat = kind.code.toNat := by
  rw [statusDone, toNat_statusOf]
  exact Nat.zero_add _

/-- A STATUS with a bit above KIND is that of no issue without error. -/
theorem statusDone_ne_of_err {status : Byte} (h : status.toNat / 4 ≠ 0) (kind : Kind) : statusDone kind ≠ status := by
  rintro rfl
  rw [toNat_statusDone] at h
  have := kind.code.isLt
  omega

/-- The KIND of the result an instruction leaves when it completes (10_state.md R17). -/
def resultKind : Instr → Kind
  | .parse => .header
  | .combbe => .value
  | .decle => .value
  | _ => .frame

/-! ### The limits and the result of an instruction, by its OP (30_encoding.md R48) -/

/-- PARSE is the instruction of OP 2. -/
theorem eq_parse_iff_op (i : Instr) : i = .parse ↔ i.op.toNat = 2 := by
  cases i <;> simp [Instr.op]

/-- The OP values of the BUILDs are 0 and 1. -/
theorem op_toNat_le_one_iff (i : Instr) : i.op.toNat ≤ 1 ↔ i.op = 0 ∨ i.op = 1 := by
  simp only [← BitVec.toNat_inj]
  exact Nat.le_one_iff_eq_zero_or_eq_one

/-- The OP values of COMBBE and DECLE are 3 and 4. -/
theorem three_le_op_toNat_iff (i : Instr) : 3 ≤ i.op.toNat ↔ i.op = 3 ∨ i.op = 4 := by
  have hle := op_toNat_le_four i
  simp only [← BitVec.toNat_inj, BitVec.reduceToNat]
  omega

/-- The lengths above what an instruction admits: above IN_CAP for all, above MAX_PAYLOAD for the BUILDs, above MAX_COMBINE
for COMBBE and DECLE (60_exceptions.md R93). -/
theorem tooLong_iff_op (cfg : Config) (i : Instr) (n : Nat) :
    cfg.inCap < n ∨ operandLimit cfg i < n ↔
      cfg.inCap < n ∨ (i.op.toNat ≤ 1 ∧ cfg.maxPayload < n) ∨ (3 ≤ i.op.toNat ∧ cfg.maxCombine < n) := by
  cases i <;> simp [operandLimit, Instr.op]

/-- PARSE reads four bytes and every other instruction its whole operand. -/
theorem bytesRead_eq_ite_op (n : Nat) (i : Instr) : bytesRead n i = if i.op.toNat = 2 then 4 else n := by
  cases i <;> rfl

/-- STATUS after an instruction that completed: 0x01 for the BUILDs, 0x02 for PARSE, 0x03 for COMBBE and DECLE. -/
theorem toNat_statusDone_resultKind (i : Instr) : (statusDone (resultKind i)).toNat =
    if i.op.toNat ≤ 1 then 0x01 else if i.op.toNat = 2 then 0x02 else 0x03 := by
  rw [toNat_statusDone]
  cases i <;> rfl

/-! ### The rungs of an instruction's checks -/

/-- Everything an operation can do after its length was admitted: TRUNCATED_HEADER of a short PARSE, the model fault, or
its result. -/
theorem performOf_cases (i : Instr) (n : Nat) (s : State) :
    (i = .parse ∧ n < 4 ∧ performOf i n s = raiseError .truncatedHeader s) ∨
    performOf i n s = .fault .readUnwritten ∨
    ∃ t, performOf i n s = .next t ∧ t.status = statusDone (resultKind i) := by
  have read (m : Nat) (finish : List Byte → State → State)
      (hstatus : ∀ bs, bs.length = m → (finish bs s).status = statusDone (resultKind i)) :
      withOperand m finish s = .fault .readUnwritten ∨
        ∃ t, withOperand m finish s = .next t ∧ t.status = statusDone (resultKind i) := by
    rcases withOperand_cases m finish s with ⟨bs, hbs, h⟩ | ⟨_, h⟩
    · exact .inr ⟨_, h, hstatus bs ((s.operand_eq_some_iff m bs).mp hbs).1⟩
    · exact .inl h
  cases i with
  | parse =>
    rcases parseHeader_cases n s with ⟨hn, h⟩ | ⟨_, h⟩
    · exact .inl ⟨rfl, hn, h⟩
    · rw [performOf, h]
      refine .inr (read 4 headerResults fun bs hbs => ?_)
      match bs, hbs with
      | [_, _, _, _], _ => rfl
  | _ => exact .inr (read n _ fun _ _ => rfl)

section
variable {i : Instr} {s t : State} {n : Half}

/-- An instruction with IN_LEN `⊥` is the model fault. -/
theorem exec_of_unwritten (h : s.inLen = none) : exec i s = .fault .readUnwritten := by
  rw [exec_eq_issue, issue_of_unwritten h]

/-- An instruction with an operand length above what it admits records OPERAND_LENGTH. -/
theorem exec_of_tooLong (hn : s.inLen = some n) (hlong : s.cfg.inCap < n.toNat ∨ operandLimit s.cfg i < n.toNat) :
    exec i s = .next ((s.beginIssue (encode i)).putError .operandLength) := by
  rw [exec_eq_issue, issue_of_tooLong hn hlong, raiseError]

/-- An instruction with an admitted length that is no short PARSE, and that reads a byte of `⊥`, is the model fault. -/
theorem exec_of_unwritten_byte (hn : s.inLen = some n)
    (hadm : ¬ (s.cfg.inCap < n.toNat ∨ operandLimit s.cfg i < n.toNat)) (hlen : ¬ (i = .parse ∧ n.toNat < 4))
    (hbot : ∃ k, k < bytesRead n.toNat i ∧ s.inBuf.read k = none) : exec i s = .fault .readUnwritten := by
  rw [not_or, Nat.not_lt, Nat.not_lt] at hadm
  exact (exec_eq_fault_iff i s).mpr
    (.inr ⟨n, hn, hadm.1, hadm.2, fun hi => Nat.le_of_not_lt fun hshort => hlen ⟨hi, hshort⟩, hbot⟩)

/-- An instruction with an admitted length that is no short PARSE, and whose operand bytes are written, completes. -/
theorem exec_completes (hn : s.inLen = some n) (hadm : ¬ (s.cfg.inCap < n.toNat ∨ operandLimit s.cfg i < n.toNat))
    (hlen : ¬ (i = .parse ∧ n.toNat < 4)) (hread : ∀ k, k < bytesRead n.toNat i → s.inBuf.read k ≠ none) :
    ∃ t, exec i s = .next t ∧ t.status = statusDone (resultKind i) := by
  rw [not_or, Nat.not_lt, Nat.not_lt] at hadm
  rw [exec_eq_issue, issue_of_admitted hn hadm.1 hadm.2]
  rcases performOf_cases i n.toNat (s.beginIssue (encode i)) with ⟨hi, hshort, _⟩ | hfault | hdone
  · exact absurd ⟨hi, hshort⟩ hlen
  · obtain ⟨_, k, hk, hbot⟩ := (performOf_eq_fault_iff i n.toNat _).mp hfault
    exact absurd hbot (hread k hk)
  · exact hdone

/-- The STATUS an instruction leaves says why: a length above what it admits, a short PARSE, or its result. -/
theorem exec_status_cases (h : exec i s = .next t) :
    (t.status = statusError .operandLength ∧
      ∃ n, s.inLen = some n ∧ (s.cfg.inCap < n.toNat ∨ operandLimit s.cfg i < n.toNat)) ∨
    (t.status = statusError .truncatedHeader ∧ i = .parse ∧ ∃ n, s.inLen = some n ∧ n.toNat < 4) ∨
    t.status = statusDone (resultKind i) := by
  rcases exec_cases i s with ⟨_, he⟩ | ⟨n, hn, hlong, he⟩ | ⟨n, hn, _, _, he⟩ <;> rw [he] at h
  · cases h
  · cases h
    exact .inl ⟨rfl, n, hn, hlong⟩
  · rcases performOf_cases i n.toNat (s.beginIssue (encode i)) with ⟨hi, hshort, hp⟩ | hp | ⟨u, hp, hdone⟩ <;>
      rw [hp] at h <;> cases h
    · exact .inr (.inl ⟨rfl, hi, n, hn, hshort⟩)
    · exact .inr (.inr hdone)

end

/-! ### A write of CW -/

/-- A word that decodes runs its instruction. -/
theorem issueWord_of_decode_ok {w : Word} {i : Instr} (h : decode w = .ok i) (s : State) :
    issueWord w s = exec i s := by
  rw [issueWord, h]

/-- A word that is illegal records ILLEGAL_OP, whatever the operands hold (60_exceptions.md R92). -/
theorem issueWord_of_illegal {w : Word} (h : IllegalWord w.toNat) (s : State) :
    issueWord w s = .next ((s.beginIssue w).putError .illegalOp) := by
  rcases issueWord_cases w s with ⟨i, hi, _⟩ | ⟨_, _, he⟩
  · exact absurd h (not_illegalWord_of_decode_ok hi)
  · exact he

/-- A write of CW that leaves a non-zero ERR is error entry on the begun issue, and nothing more (R94). -/
theorem eq_putError_of_issueWord {w : Word} {s t : State} (h : issueWord w s = .next t)
    (herr : t.status.toNat / 4 ≠ 0) : ∃ err, err ≠ .ok ∧ t = (s.beginIssue w).putError err := by
  rcases issueWord_cases w s with ⟨i, hi, he⟩ | ⟨_, _, he⟩ <;> rw [he] at h
  · rw [← encode_of_decode_ok hi]
    rcases exec_next_cases h with ⟨err, hcode, ht⟩ | ⟨_, _, _, _, _, _, _, _, _, _, _, rfl⟩ | ⟨_, _, _, _, _, _, rfl⟩ |
      ⟨_, _, _, _, _, _, rfl⟩
    · exact ⟨err, by rcases hcode with rfl | rfl <;> decide, ht⟩
    all_goals exact absurd rfl (statusDone_ne_of_err herr _)
  · cases h
    exact ⟨.illegalOp, by decide, rfl⟩

/-! ## The statements on errors and model faults, and on the idle step -/

/-- Settles O7: with no access pending the step is the idle step. -/
theorem idleStepChangesNothing : Obligations.IdleStepChangesNothing := by
  intro s hl hidle
  rcases step_cases s with ⟨hbad, _⟩ | ⟨_, _, he⟩ | ⟨_, _, _, hpending, _⟩
  · exact absurd hl hbad
  · exact he
  · rw [hidle] at hpending; cases hpending

/-- Settles O31: the decode check comes before IN_LEN is read, and error entry writes STATUS only. -/
theorem illegalWordRaisesIllegalOp : Obligations.IllegalWordRaisesIllegalOp := by
  intro s rest v hl hh hv hbad
  have hill : IllegalWord (BitVec.ofNat 32 v).toNat := by rwa [BitVec.toNat_ofNat, Nat.mod_eq_of_lt hv]
  rw [step_of_host hl hh, hostAccess_writeCw hv, issueWord_of_illegal hill]
  exact ⟨_, rfl, rfl, ⟨rfl, rfl, fun _ => rfl, rfl, rfl, rfl, rfl, rfl, rfl⟩, rfl, rfl, fun _ => rfl, rfl, rfl, rfl⟩

/-- Settles O32: no other rung of the checks leaves this STATUS. -/
theorem operandLengthRaisedExactlyWhenTooLong : Obligations.OperandLengthRaisedExactlyWhenTooLong := by
  intro i s
  simp only [← op_toNat_le_one_iff, ← three_le_op_toNat_iff, ← tooLong_iff_op]
  constructor
  · rintro ⟨t, ht, hstatus⟩
    rcases exec_status_cases ht with ⟨_, hlong⟩ | ⟨htrunc, _⟩ | hdone
    · exact hlong
    · exact absurd (htrunc.symm.trans hstatus) (by decide)
    · exact absurd (hdone.symm.trans hstatus) (statusDone_ne_of_err (by decide) _)
  · rintro ⟨n, hn, hlong⟩
    exact ⟨_, exec_of_tooLong hn hlong, rfl⟩

/-- Settles O33: no other rung of the checks leaves this STATUS, and every legal IN_CAP admits a short PARSE. -/
theorem truncatedHeaderOnlyFromShortParse : Obligations.TruncatedHeaderOnlyFromShortParse := by
  intro i s hl
  constructor
  · rintro ⟨t, ht, hstatus⟩
    rcases exec_status_cases ht with ⟨hlen, _⟩ | ⟨_, hshort⟩ | hdone
    · exact absurd (hlen.symm.trans hstatus) (by decide)
    · exact hshort
    · exact absurd (hdone.symm.trans hstatus) (statusDone_ne_of_err (by decide) _)
  · rintro ⟨rfl, n, hn, hshort⟩
    exact ⟨_, exec_parse_of_short hl hn hshort, rfl⟩

/-- Settles O34: a non-zero ERR comes from error entry only, which sets STATUS on the begun issue. -/
theorem errorsArePrecise : Obligations.ErrorsArePrecise := by
  intro s t rest v hh ht herr
  obtain ⟨_, hw⟩ := issueWord_of_writeCw_next (hostAccess_of_step_next hh ht)
  obtain ⟨err, hok, rfl⟩ := eq_putError_of_issueWord hw herr
  refine ⟨?_, rfl⟩
  rw [State.putError_status]
  cases err with
  | ok => exact absurd rfl hok
  | truncatedHeader => exact .inl rfl
  | illegalOp => exact .inr (.inl rfl)
  | operandLength => exact .inr (.inr rfl)

/-- Settles O35: one rung after the other, each read by the OP of the word. -/
theorem checksOfAnIssueRunInOrder : Obligations.ChecksOfAnIssueRunInOrder := by
  intro s rest v hl hh hv
  have hword : (BitVec.ofNat 32 v).toNat = v := by rw [BitVec.toNat_ofNat, Nat.mod_eq_of_lt hv]
  rw [step_of_host hl hh, hostAccess_writeCw hv]
  refine ⟨fun hbad => ⟨_, issueWord_of_illegal (hword.symm ▸ hbad) _, rfl⟩, fun hlegal => ?_⟩
  obtain ⟨i, hi⟩ := (exists_decode_ok_iff (BitVec.ofNat 32 v)).mpr (hword.symm ▸ hlegal)
  have hop : i.op.toNat = v % 8 := (op_of_decode_ok hi).trans (by rw [hword])
  rw [issueWord_of_decode_ok hi, ← hop]
  simp only [← tooLong_iff_op, ← bytesRead_eq_ite_op, ← toNat_statusDone_resultKind]
  simp only [← eq_parse_iff_op]
  refine ⟨exec_of_unwritten (s := s.takeAccess rest), fun n hn => ⟨?_, fun hadm => ⟨?_, fun hlen => ⟨?_, ?_⟩⟩⟩⟩
  · intro hlong
    exact ⟨_, exec_of_tooLong (s := s.takeAccess rest) hn hlong, rfl⟩
  · rintro ⟨rfl, hshort⟩
    exact ⟨_, exec_parse_of_short (s := s.takeAccess rest) hl hn hshort, rfl⟩
  · intro hbot
    exact exec_of_unwritten_byte (s := s.takeAccess rest) hn hadm hlen hbot
  · intro hread
    obtain ⟨t, ht, hdone⟩ := exec_completes (s := s.takeAccess rest) hn hadm hlen hread
    exact ⟨t, ht, congrArg BitVec.toNat hdone⟩

end Sys2Proof.Machine

/-! ## RESET, and two operand writes in either order (70_reset_and_hazards.md R106, R108) -/

namespace Sys2Proof.Machine

/-- RESET leaves no result register with a value. -/
theorem noResult_applyReset (s : State) : s.applyReset.NoResult :=
  ⟨rfl, rfl, Memory.read_nil, rfl, rfl, rfl, rfl, rfl, rfl⟩

/-- What a buffer reads after two writes of different indices does not depend on their order. -/
theorem Memory.read_write_write_comm (m : Memory) {i j : Nat} (h : i ≠ j) (v w : Byte) (k : Nat) :
    ((m.write i v).write j w).read k = ((m.write j w).write i v).read k := by
  by_cases hi : k = i
  · subst hi
    rw [Memory.read_write_of_ne _ _ h, Memory.read_write_same, Memory.read_write_same]
  · rw [Memory.read_write_of_ne (m.write j w) v hi]
    by_cases hj : k = j
    · subst hj
      rw [Memory.read_write_same, Memory.read_write_same]
    · rw [Memory.read_write_of_ne _ _ hj, Memory.read_write_of_ne _ _ hi, Memory.read_write_of_ne _ _ hj]

/-- A canonical buffer is fixed by what it reads, so two writes of different indices commute. -/
theorem Memory.write_write_comm {m : Memory} (hm : m.Canonical) {i j : Nat} (h : i ≠ j) (v w : Byte) :
    (m.write i v).write j w = (m.write j w).write i v :=
  Memory.ext_of_canonical (Memory.canonical_write (Memory.canonical_write hm i v) j w)
    (Memory.canonical_write (Memory.canonical_write hm j w) i v) (Memory.read_write_write_comm m h v w)

section
variable {s : State} {rest : List HostAccess}

/-- Stores of different bytes of IN_BUF commute. -/
theorem State.storeInByte_storeInByte_comm (hm : s.inBuf.Canonical) {i j : Nat} (h : i ≠ j) (v w : Byte) :
    (s.storeInByte i v).storeInByte j w = (s.storeInByte j w).storeInByte i v :=
  congrArg (fun m => { s with inBuf := m }) (Memory.write_write_comm hm h v w)

/-- Stores of an IN_BUF byte and of IN_LEN are of different fields. -/
theorem State.storeInByte_storeInLen_comm (i : Nat) (v : Byte) (n : Half) :
    (s.storeInByte i v).storeInLen n = (s.storeInLen n).storeInByte i v := rfl

/-- Two pending accesses, the first with a next state: the run of two steps ends with the second access there. -/
theorem run_two_of_hostAccess_next {a b : HostAccess} {t : State} (hl : s.cfg.Legal)
    (ht : hostAccess a (s.takeAccess (b :: rest)) = .next t) :
    run 2 (s.takeAccess (a :: b :: rest)) = hostAccess b (t.takeAccess rest) := by
  obtain ⟨hcfg, hhost⟩ := hostAccess_keeps_cfg_host ht
  have first : step (s.takeAccess (a :: b :: rest)) = .next t :=
    (step_of_host (s := s.takeAccess (a :: b :: rest)) hl rfl).trans ht
  have hlt : t.cfg.Legal := hcfg ▸ hl
  rw [run_succ_of_next first, run_one, step_of_host hlt hhost]

/-- A pending write of an IN_BUF byte, then another access: the second acts on the state with the byte stored. -/
theorem run_two_of_writeIn {b : HostAccess} {i v : Nat} (hl : s.cfg.Legal) (hi : i < s.cfg.inCap) (hv : v < 2 ^ 8) :
    run 2 (s.takeAccess (.writeIn i v :: b :: rest)) =
      hostAccess b ((s.takeAccess rest).storeInByte i (BitVec.ofNat 8 v)) :=
  run_two_of_hostAccess_next hl (hostAccess_writeIn (s := s.takeAccess (b :: rest)) hi hv)

/-- A pending write of IN_LEN, then another access: the second acts on the state with the length stored. -/
theorem run_two_of_writeInLen {b : HostAccess} {n : Nat} (hl : s.cfg.Legal) (hn : n < 2 ^ 16) :
    run 2 (s.takeAccess (.writeReg 0x01#8 n :: b :: rest)) =
      hostAccess b ((s.takeAccess rest).storeInLen (BitVec.ofNat 16 n)) :=
  run_two_of_hostAccess_next hl (hostAccess_writeInLen hn _)

end

/-! ## The statements on reset and on the order of operand writes -/

/-- Settles O8: the step is the access RESET, which gives the reset state of the same parameters and host side. -/
theorem resetAccessSetsEveryRegister : Obligations.ResetAccessSetsEveryRegister :=
  fun s rest hl hh =>
    ⟨(s.takeAccess rest).applyReset, step_of_host hl hh, rfl, rfl, rfl, Memory.read_nil, noResult_applyReset _, rfl, rfl,
      rfl⟩

/-- Settles O44: each pair of accesses is a pair of stores, and the stores commute. -/
theorem operandWriteOrderDoesNotMatter : Obligations.OperandWriteOrderDoesNotMatter := by
  intro s rest i j v w n hl hm hi hj hij hv hw hn
  constructor
  · refine ⟨((s.takeAccess rest).storeInByte i (BitVec.ofNat 8 v)).storeInByte j (BitVec.ofNat 8 w), ?_, ?_⟩
    · exact (run_two_of_writeIn hl hi hv).trans (hostAccess_writeIn hj hw)
    · rw [State.storeInByte_storeInByte_comm (s := s.takeAccess rest) hm hij]
      exact (run_two_of_writeIn hl hj hw).trans (hostAccess_writeIn hi hv)
  · refine ⟨((s.takeAccess rest).storeInByte i (BitVec.ofNat 8 v)).storeInLen (BitVec.ofNat 16 n), ?_, ?_⟩
    · exact (run_two_of_writeIn hl hi hv).trans (hostAccess_writeInLen hn _)
    · rw [State.storeInByte_storeInLen_comm]
      exact (run_two_of_writeInLen hl hn).trans (hostAccess_writeIn hi hv)

end Sys2Proof.Machine
